-- ==== Sys2Proof/Word.lean ====
section
/-! DEFINITION. The word types of the block: 00_scope.md R6, R8, R9. Every value is unsigned (R8), bit 0 is the
least significant bit (R8), and addition of words is addition of bit vectors, which wraps (R90). -/

namespace Sys2Proof

/-- A 32-bit unsigned word (R6, R9). -/
abbrev Word := BitVec 32

/-- An 8-bit unsigned byte (R6, R9). -/
abbrev Byte := BitVec 8

/-- A block: exactly 64 bytes, `B[0]` first in message order (R9, R53). -/
abbrev Block := Vector Byte 64

/-- A message schedule: exactly 64 words (R9, R24). -/
abbrev Schedule := Vector Word 64

/-- Eight words: the running hash state, or the working registers a to h (R9 `state8`, R21, R23). -/
abbrev State8 := Vector Word 8

/-- A digest: exactly 32 bytes, `Dg[0]` first (R9, R56). -/
abbrev Digest := Vector Byte 32

/-- A command code on the 2-bit port `cmd` (R33, R71). -/
abbrev CmdCode := BitVec 2

/-- A decode word `dw[4:0]` (R70). -/
abbrev DecodeWord := BitVec 5

end Sys2Proof
end

