-- ==== Sys2Proof/Syntax.lean ====
section
/-! DEFINITION. The operations of the decode table: one constructor per row of spec/opcode_table.json
(30_encoding.md R72, R75). No operand comes from the decode word (R73). -/

namespace Sys2Proof

/-- The nine operations a decode word selects. `cc` is the pair of `cmd` bits that a row of a busy phase does not
look at (R72); it is kept so that no bit of the word is dropped (log entry 14). -/
inductive Instr where
  /-- IDLE, `cmd` = 00: nothing (R142). -/
  | nop
  /-- IDLE, `cmd` = 01: begin a message (R143). -/
  | init
  /-- IDLE, `cmd` = 10: absorb the block on the block port (R144). -/
  | block
  /-- IDLE, `cmd` = 11: the reserved code, a fault (R164). -/
  | rsvd3
  /-- SCHED: one schedule entry (R122). -/
  | sched (cc : CmdCode)
  /-- LDREG: load the working registers (R131). -/
  | ldreg (cc : CmdCode)
  /-- ROUND: one compression round (R132). -/
  | round (cc : CmdCode)
  /-- FEED: feed-forward (R147). -/
  | feed (cc : CmdCode)
  /-- The FAULT phase: nothing (R167). -/
  | halt (cc : CmdCode)
  deriving DecidableEq, Repr

end Sys2Proof
end

