-- ==== Sys2Proof/Decode.lean ====
section
/-! DEFINITION. Decoding and encoding of the decode word (30_encoding.md R70, R72, R75, R76). -/

namespace Sys2Proof

/-- Why a decode word selects no operation (R72, R76). -/
inductive DecodeError where
  /-- The phase bits are 101 or 110, which no rule writes (R28). -/
  | unreachablePhase (code : BitVec 3)
  deriving DecidableEq, Repr

/-- One row of the decode table: it matches `dw` when `dw and mask = value` (R72). -/
structure DecodeRow where
  value : DecodeWord
  mask  : DecodeWord
  build : CmdCode → Instr

/-- The decode table, in the order of R72. -/
def decodeTable : List DecodeRow :=
  [ ⟨0x00#5, 0x1f#5, fun _ => .nop⟩,
    ⟨0x01#5, 0x1f#5, fun _ => .init⟩,
    ⟨0x02#5, 0x1f#5, fun _ => .block⟩,
    ⟨0x03#5, 0x1f#5, fun _ => .rsvd3⟩,
    ⟨0x04#5, 0x1c#5, .sched⟩,
    ⟨0x08#5, 0x1c#5, .ldreg⟩,
    ⟨0x0c#5, 0x1c#5, .round⟩,
    ⟨0x10#5, 0x1c#5, .feed⟩,
    ⟨0x1c#5, 0x1c#5, .halt⟩ ]

/-- A row matches a decode word (R72, R75). -/
def DecodeRow.hits (r : DecodeRow) (dw : DecodeWord) : Bool :=
  dw &&& r.mask == r.value

/-- The phase field `dw[4:2]` (R70). -/
def phaseField (dw : DecodeWord) : BitVec 3 := dw.extractLsb' 2 3

/-- The command field `dw[1:0]` (R70). -/
def cmdField (dw : DecodeWord) : CmdCode := dw.extractLsb' 0 2

/-- The decoder: the one row that matches (R75); a word with no row is refused by name (R76). -/
def decode (dw : DecodeWord) : Except DecodeError Instr :=
  match decodeTable.find? (fun r => r.hits dw) with
  | some r => .ok (r.build (cmdField dw))
  | none => .error (.unreachablePhase (phaseField dw))

/-- The encoder: phase bits, then command bits (R70, R72). -/
def encode (i : Instr) : DecodeWord :=
  match i with
  | .nop => 0b00000#5
  | .init => 0b00001#5
  | .block => 0b00010#5
  | .rsvd3 => 0b00011#5
  | .sched cc => 0b001#3 ++ cc
  | .ldreg cc => 0b010#3 ++ cc
  | .round cc => 0b011#3 ++ cc
  | .feed cc => 0b100#3 ++ cc
  | .halt cc => 0b111#3 ++ cc

/-- The decode word held in the low bits of a number, or none where a bit above `dw[4]` is set: a decode word has
exactly 5 bits (R70; log entry 21). -/
def tableWord (nbits w : Nat) : Option DecodeWord :=
  if w % 2 ^ nbits < 32 then some (BitVec.ofNat 5 (w % 2 ^ nbits)) else none

/-- The operation a word of the opcode table decodes to. -/
def decodeTableWord (nbits w : Nat) : Option Instr :=
  match tableWord nbits w with
  | none => none
  | some dw =>
    match decode dw with
    | .ok i => some i
    | .error _ => none

end Sys2Proof
end

