-- ==== Sys2Proof/Config.lean ====
section
/-! DEFINITION. What the spec leaves to an implementation or a platform (00_scope.md R7, 92_eei_decisions.md), and
the free values: constants without a body, about which nothing can be proved. -/

namespace Sys2Proof.Config

/-- The steps from the acceptance of BLOCK to `ready` again, `STEPS_PER_BLOCK` (R7, R201, decision D7): a named
timing parameter on which no meaning depends (log entry 18). -/
def stepsPerBlock : Nat := 115

/-- The number of core instances of a platform, default 1 (R7, R178, decision D14; log entry 19). -/
def coreCount : Nat := 1

/-- FREE VALUE. The n-th word of no stated value: what an element that "holds no value" after the reset event is
modelled to hold (R36, 93_implementation_defined.md U10; log entry 1). -/
opaque freeWord : Nat → Word

/-- FREE VALUE. How a text that is not ASCII becomes bytes, the host parameter `TEXT_ENCODING` (R116, decision D21,
93_implementation_defined.md U8; log entry 13). -/
opaque textEncoding : List Char → List Byte

end Sys2Proof.Config
end

