-- ==== Sys2Proof/HostSyntax.lean ====
section
/-! DEFINITION. What the host says and hears, as plain data: its moves on the input ports, the causes of faults, the
items of a trace (10_state.md R33, 30_encoding.md R78, R79, 60_exceptions.md R161). -/

namespace Sys2Proof

/-- One move on the input ports (R11, R33): the reset event between two steps, or the values driven on `cmd` and
`block_in` in one step. Whatever can stand on the ports is here, since the core has a rule for each (R164, R195). The
host that keeps R200 has the moves of `HostAct` only. -/
inductive HostEvent where
  /-- The reset event on `rst` (R190). -/
  | reset
  /-- The port values of one step: `cmd` and `block_in` (R33). -/
  | drive (cmd : CmdCode) (blockIn : Block)
  deriving DecidableEq, Repr

/-- What a host that keeps R200 can do next. It has no move for the last column of R200: none presents the reserved
code, drops a command it holds, or leaves the order of its messages and their blocks (`Machine/HostAgent.lean`). -/
inductive HostAct where
  /-- Apply the reset event: allowed between any two steps. -/
  | reset
  /-- Ask for nothing in this step, if no command is being held; `free` stands on the block port. -/
  | idle (free : Block)
  /-- Present the command the host's work asks for next; `free` stands on the block port wherever that command leaves
  it free. -/
  | request (free : Block)
  deriving DecidableEq, Repr

/-- The causes of faults of the whole system (R161). The first three are errors of the function view and of the
host; only the last two are raised by the block. -/
inductive FaultCause where
  /-- `expand` was given a sequence that is not 64 bytes (R162). -/
  | precondBlockLen
  /-- `compress` was given a schedule that is not 64 words (R162). -/
  | precondSchedLen
  /-- The host was asked to hash 2^61 bytes or more (R112, R165). -/
  | unsupportedInput
  /-- BLOCK in phase IDLE while `open` = 0 (R163). -/
  | blockBeforeInit
  /-- `cmd` = 11 in phase IDLE (R164). -/
  | reservedCmd
  deriving DecidableEq, Repr

/-- One item of a host trace (R78); `wait` is the pseudo-operation WAIT, which is a repeated NOP (R79). -/
inductive TraceItem where
  /-- The reset event. -/
  | reset
  /-- INIT, `cmd` = 01. -/
  | init
  /-- BLOCK, `cmd` = 10 with its 64 bytes. -/
  | block (b : Block)
  /-- The reserved code, `cmd` = 11. -/
  | rsvd3
  /-- `n` steps with `cmd` = 00, n >= 1. -/
  | nop (n : Nat)
  /-- NOP until `ready` = 1 or `fault` = 1. -/
  | wait
  deriving DecidableEq, Repr

/-- One line of a trace program: an item, or a pseudo-operation that is not one item (R79). -/
inductive TraceLine where
  /-- An item of R78, or WAIT. -/
  | item (i : TraceItem)
  /-- HASH of a message given as bytes. -/
  | hash (m : List Byte)
  /-- DIGEST: read `digest_out`. -/
  | digest
  deriving DecidableEq, Repr

end Sys2Proof
end

