-- ==== Sys2Proof/Machine/State.lean ====
section
/-! DEFINITION. The state of one core (10_state.md R20), the values on its input ports (R33), the host's moves still
to come, and the reasons a step can stop. -/

namespace Sys2Proof.Machine

/-- The six phases of the sequencer (R28). The codes 101 and 110 have no value here: "A model's phase type has
exactly the six named values". -/
inductive Phase where
  | idle
  | sched
  | ldreg
  | round
  | feed
  | fault
  deriving DecidableEq, Repr

/-- The machine's state. The first eight fields are the complete state of R20; `cmd` and `blockIn` are the values on
the input ports (R33, log entry 4); `pending` (log entry 3) and `draws` (log entry 2) are the model's own. -/
structure State where
  /-- Working registers a to h (R21). -/
  wr      : State8
  /-- Running hash state `HS` (R23). -/
  hs      : State8
  /-- Message schedule `W` (R24). -/
  w       : Schedule
  /-- Sequencer phase (R27, R28). -/
  phase   : Phase
  /-- Sequencer counter (R27). -/
  t       : BitVec 6
  /-- The flag `open` (R30). -/
  isOpen  : Bool
  /-- The flag `dv` (R30). -/
  dv      : Bool
  /-- The fault code register (R31). -/
  fcode   : BitVec 3
  /-- The value on the command port in the current step (R33). -/
  cmd     : CmdCode
  /-- The value on the block port in the current step (R33). -/
  blockIn : Block
  /-- The host's moves still to come, the next one first. -/
  pending : List HostEvent
  /-- The number of the next free word a reset event uses. -/
  draws   : Nat
  deriving DecidableEq, Repr

/-- The reasons the model stops. Neither can be reached from reset (10_state.md R37); both are safe: the model stops
where the spec gives no behaviour. -/
inductive Fault where
  /-- SCHED with `t` < 16: `W[t-16]` does not exist (20_memory.md R51: such an index "cannot be formed"). Raised by
  SCHED only. Safe (log entry 6). -/
  | scheduleIndex (t : BitVec 6)
  /-- The decode word has no row (30_encoding.md R76, 93_implementation_defined.md U15: stuck). Raised by the step
  only. Safe (log entry 7). -/
  | noRow (code : BitVec 3)
  deriving DecidableEq, Repr

/-- Instructions without a meaning. Raised by no arm of this model. Safe. -/
inductive Refusal where
  /-- The instruction of that mnemonic has no meaning yet. Raised by an arm of `exec` only. Safe. -/
  | notModelled (mnemonic : String)
  deriving DecidableEq, Repr

/-- How many free words one reset event uses: 8 for `HS`, 8 for `wr`, 64 for `W` (R36; log entry 2). -/
def wordsPerReset : Nat := 80

/-- How far a reset event moves the counter of free words: past one reset of every core of the platform, so that no
two cores ever use the same free word (the model's choice, log entry 19). -/
def drawStride : Nat := Config.coreCount * wordsPerReset

/-- `n` free words from draw number `base` on: elements that "hold no value" (R36, U10; log entry 1). -/
def freeWords (base n : Nat) : Vector Word n := Vector.ofFn fun j => Config.freeWord (base + j)

/-- The machine right after reset (10_state.md R36, 70_reset_and_hazards.md R190): position (IDLE, 0), flags and
fault code 0, `HS`, `W` and `wr` without a stated value; the host has not moved yet. -/
def State.reset : State where
  hs := freeWords 0 8
  wr := freeWords 8 8
  w := freeWords 16 64
  phase := .idle
  t := 0
  isOpen := false
  dv := false
  fcode := 0
  cmd := 0
  blockIn := Vector.replicate 64 0
  pending := []
  draws := drawStride

end Sys2Proof.Machine
end

