-- ==== Sys2Proof/Machine/Flags.lean ====
section
/-! DEFINITION. The flags (10_state.md R30). There are no condition codes: no operation sets a carry, zero, sign or
overflow flag. The two flags of the accumulator are written by the five operations below and by nothing else. -/

namespace Sys2Proof.Machine

/-- INIT sets `open` and clears `dv` (R30, R143). -/
def flagsInit (s : State) : State := { s with isOpen := true, dv := false }

/-- The acceptance of BLOCK clears `dv` (R30, R144). -/
def flagsBlock (s : State) : State := { s with dv := false }

/-- FEED sets `dv` (R30, R147). -/
def flagsFeed (s : State) : State := { s with dv := true }

/-- Fault entry clears both flags (R30, R166). -/
def flagsFault (s : State) : State := { s with isOpen := false, dv := false }

/-- The reset event clears both flags (R30, R190). -/
def flagsReset (s : State) : State := { s with isOpen := false, dv := false }

end Sys2Proof.Machine
end

