-- ==== Sys2Proof/Machine/Operands.lean ====
section
/-! DEFINITION. How operands and codes are formed: byte order (20_memory.md R52 to R54), the words of a block (R53,
30_encoding.md R73), the port flattenings (R53, R56), the codes of phases, commands and faults (R28, R71, R161), the
decode word (R70). -/

namespace Sys2Proof.Machine

/-- `be32(b0, b1, b2, b3)`: `b0` is bits [31:24] (R52). -/
def be32 (b0 b1 b2 b3 : Byte) : Word := b0 ++ b1 ++ b2 ++ b3

/-- Byte `k` of `bytes_be32(w)`, k in 0..3, the first being the most significant (R52). -/
def beByte (w : Word) (k : Fin 4) : Byte := w.extractLsb' (24 - 8 * k) 8

/-- `bytes_be32(w)` (R52). -/
def bytesBe32 (w : Word) : Vector Byte 4 := Vector.ofFn (beByte w)

/-- Word `j` of a block: bytes 4j to 4j+3, big-endian (R53, R73). -/
def blockWord (b : Block) (j : Fin 16) : Word :=
  be32 b[4 * j.val] b[4 * j.val + 1] b[4 * j.val + 2] b[4 * j.val + 3]

/-- `render(HS)`: digest byte 4j + k is byte k of word j (44_accumulator.md R148, R54). -/
def render (hs : State8) : Digest :=
  Vector.ofFn fun k => beByte hs[k.val / 4] ⟨k.val % 4, Nat.mod_lt _ (by decide)⟩

/-- The number that bytes side by side write, the first byte most significant. -/
def bytesValue (l : List Byte) : Nat := l.foldl (fun acc b => 256 * acc + b.toNat) 0

/-- The block port as one 512-bit vector: `block_in[511-8k : 504-8k] = B[k]` (R53). -/
def blockVector (b : Block) : BitVec 512 := BitVec.ofNat 512 (bytesValue b.toList)

/-- The digest port as one 256-bit vector: `digest_out[255-8k : 248-8k] = Dg[k]` (R56). -/
def digestVector (d : Digest) : BitVec 256 := BitVec.ofNat 256 (bytesValue d.toList)

/-- The phase codes (R28). -/
def phaseCode (p : Phase) : BitVec 3 :=
  match p with
  | .idle => 0b000#3
  | .sched => 0b001#3
  | .ldreg => 0b010#3
  | .round => 0b011#3
  | .feed => 0b100#3
  | .fault => 0b111#3

/-- The phase a code names; 101 and 110 name none (R28). -/
def phaseOfCode (code : BitVec 3) : Option Phase :=
  [Phase.idle, .sched, .ldreg, .round, .feed, .fault].find? fun p => phaseCode p == code

/-- The command code NOP (R71). -/
def cmdNop : CmdCode := 0b00#2

/-- The command code INIT (R71). -/
def cmdInit : CmdCode := 0b01#2

/-- The command code BLOCK (R71). -/
def cmdBlock : CmdCode := 0b10#2

/-- The reserved command code (R71, R76). -/
def cmdRsvd3 : CmdCode := 0b11#2

/-- The fault codes (R161). Code 0 is "no fault"; 6 and 7 are unused. -/
def faultCode (c : FaultCause) : BitVec 3 :=
  match c with
  | .precondBlockLen => 1
  | .precondSchedLen => 2
  | .unsupportedInput => 3
  | .blockBeforeInit => 4
  | .reservedCmd => 5

/-- The decode word of a step: `phase ‖ cmd` (R70). -/
def decodeWord (s : State) : DecodeWord := phaseCode s.phase ++ s.cmd

end Sys2Proof.Machine
end

