-- ==== Sys2Proof/Machine/Ops.lean ====
section
/-! DEFINITION. The shared operations over the state: writes of the register files and of the position, fault entry
(the block's one exception) and the reset event (its one way out), the host's move before a step, the byte view of the
indexed spaces. -/

namespace Sys2Proof.Machine

/-- `pc <- (p, n)`: the one write of the sequencer position (10_state.md R27). -/
def setPc (p : Phase) (n : BitVec 6) (s : State) : State := { s with phase := p, t := n }

/-- Write all eight words of `HS` at once (R10, R23). -/
def writeHs (v : State8) (s : State) : State := { s with hs := v }

/-- Write all eight working registers at once (R10, R22). -/
def writeWr (v : State8) (s : State) : State := { s with wr := v }

/-- Write the schedule array (R24). -/
def writeW (v : Schedule) (s : State) : State := { s with w := v }

/-- The counter as an index of `W` and of `K`; 6 bits reach exactly 0..63 (R27). -/
def indexOf (t : BitVec 6) : Fin 64 := ⟨t.toNat, t.isLt⟩

/-- Move on inside the counted loop of phase `here`: to the next index, or after index 63 to `(after, 0)` (R29, R122,
R132). -/
def advance (here after : Phase) (s : State) : State :=
  if s.t = 63 then setPc after 0 s else setPc here (s.t + 1) s

/-- Fault entry (60_exceptions.md R166): the code is recorded, both flags are cleared, the position becomes
(FAULT, 0). Nothing is saved, and `HS`, `W`, `wr` keep their values. -/
def raise (c : FaultCause) (s : State) : State :=
  setPc .fault 0 (flagsFault { s with fcode := faultCode c })

/-- The reset event (70_reset_and_hazards.md R190, 10_state.md R36): the one way out of FAULT (60_exceptions.md R168).
`HS`, `W` and `wr` hold no stated value after it: fresh free words (log entries 1 and 2). -/
def resetEvent (s : State) : State :=
  setPc .idle 0 (flagsReset
    { s with
      fcode := 0
      hs := freeWords s.draws 8
      wr := freeWords (s.draws + 8) 8
      w := freeWords (s.draws + 16) 64
      draws := s.draws + drawStride })

/-- What stands before the next step: the reset event has been applied between two steps, or the ports have their
values and the core takes a step (R11). -/
inductive HostMove where
  | resetApplied (s : State)
  | sampled (s : State)
  deriving DecidableEq, Repr

/-- Drive the input ports (R33). -/
def drivePorts (c : CmdCode) (b : Block) (s : State) : State := { s with cmd := c, blockIn := b }

/-- Take the host's next move. A host with nothing left to ask leaves NOP on the command port (44_accumulator.md
R142) and the block port as it is (log entry 3). -/
def hostMove (s : State) : HostMove :=
  match s.pending with
  | .reset :: es => .resetApplied (resetEvent { s with pending := es })
  | .drive c b :: es => .sampled (drivePorts c b { s with pending := es })
  | [] => .sampled (drivePorts cmdNop s.blockIn s)

/-- The byte-addressed spaces of 00_scope.md R10 and 20_memory.md R51. -/
inductive Space where
  | blk
  | krom
  | ivrom
  | dig
  deriving DecidableEq, Repr

/-- Byte `a` of an array of words seen most significant byte first (R51, R52). -/
def romByte {n : Nat} (rom : Vector Word n) (a : Nat) : Option Byte :=
  if h : a / 4 < n then some (beByte rom[a / 4] ⟨a % 4, Nat.mod_lt _ (by decide)⟩) else none

/-- One byte of a space. An address outside it cannot be formed (R51); that it reads nothing is the model's reading
(DEDUCED, log entry 8). DIG is what the hardware shows there, the rendering of `HS` (R56). -/
def readByte (sp : Space) (s : State) (a : Nat) : Option Byte :=
  match sp with
  | .blk => s.blockIn[a]?
  | .krom => romByte romK a
  | .ivrom => romByte romIV a
  | .dig => (render s.hs)[a]?

/-- `MemRead(space, addr, n)` (R10): the `n` bytes from `addr` on, if all of them exist. -/
def memRead (sp : Space) (s : State) (addr : Nat) : Nat → Option (List Byte)
  | 0 => some []
  | n + 1 =>
    match readByte sp s addr, memRead sp s (addr + 1) n with
    | some b, some rest => some (b :: rest)
    | _, _ => none

end Sys2Proof.Machine
end

