-- ==== Sys2Proof/Machine/Primitives.lean ====
section
/-! DEFINITION. The twelve combinational primitives (40_primitives.md R90 to R101). They read and write no state, set
no flag and raise no fault (R102). -/

namespace Sys2Proof.Machine

/-- ADD32: addition modulo 2^32; the carry is discarded (R90). -/
def add32 (x y : Word) : Word := x + y

/-- ROTR: circular right rotation; bit i of the result is bit (i + n) mod 32 of `x`, for every amount (R91). -/
def rotr (x : Word) (n : Nat) : Word := x.rotateRight n

/-- SHR: logical right shift; an amount of 32 or more gives 0 (R92). -/
def shr (x : Word) (n : Nat) : Word := x >>> n

/-- AND (R93). -/
def and32 (x y : Word) : Word := x &&& y

/-- XOR (R94). -/
def xor32 (x y : Word) : Word := x ^^^ y

/-- NOT (R95). -/
def not32 (x : Word) : Word := ~~~x

/-- CH, the document's `ch` (R96). -/
def ch (e f g : Word) : Word := xor32 (and32 e f) (and32 (not32 e) g)

/-- MAJ, the document's `maj` (R97). -/
def maj (a b c : Word) : Word := xor32 (xor32 (and32 a b) (and32 a c)) (and32 b c)

/-- BSIG0, the document's `S0` (R98). -/
def bsig0 (x : Word) : Word := xor32 (xor32 (rotr x 2) (rotr x 13)) (rotr x 22)

/-- BSIG1, the document's `S1` (R99). -/
def bsig1 (x : Word) : Word := xor32 (xor32 (rotr x 6) (rotr x 11)) (rotr x 25)

/-- SSIG0, the document's `s0` (R100). -/
def ssig0 (x : Word) : Word := xor32 (xor32 (rotr x 7) (rotr x 18)) (shr x 3)

/-- SSIG1, the document's `s1` (R101). -/
def ssig1 (x : Word) : Word := xor32 (xor32 (rotr x 17) (rotr x 19)) (shr x 10)

end Sys2Proof.Machine
end

