-- ==== Sys2Proof/Machine/Compressor.lean ====
section
/-! DEFINITION. The compressor: the function `compress` (43_compressor.md R130), LDREG (R131), ROUND (R132). The
registers a to h are elements 0 to 7 (10_state.md R21). -/

namespace Sys2Proof.Machine

/-- `temp1 = h + S1 + ch + K[i] + W[i]` (R130, R132). -/
def temp1 (r : State8) (k w : Word) : Word :=
  add32 (add32 (add32 (add32 r[7] (bsig1 r[4])) (ch r[4] r[5] r[6])) k) w

/-- `temp2 = S0 + maj` (R130, R132). -/
def temp2 (r : State8) : Word := add32 (bsig0 r[0]) (maj r[0] r[1] r[2])

/-- One round: all eight registers written at once from their old values (R130, R132, 00_scope.md R11). -/
def roundRegs (r : State8) (k w : Word) : State8 :=
  #v[add32 (temp1 r k w) (temp2 r), r[0], r[1], r[2], add32 r[3] (temp1 r k w), r[4], r[5], r[6]]

/-- The registers after rounds 0 to n - 1, in strict order (R130). -/
def compressLoop (w : Schedule) (r : State8) : Nat → State8
  | 0 => r
  | n + 1 =>
    if h : n < 64 then roundRegs (compressLoop w r n) romK[n] w[n] else compressLoop w r n

/-- `compress` of a schedule of 64 words (R130); not yet added to `r`. -/
def compressWords (w : Schedule) (r : State8) : State8 := compressLoop w r 64

/-- `compress` on a sequence of words: a sequence of another length is a precondition violation (R130, R124, R162). -/
def compress (words : List Word) (r : State8) : Except FaultCause State8 :=
  if h : words.length = 64 then .ok (compressWords ⟨words.toArray, by simpa using h⟩ r)
  else .error .precondSchedLen

/-- LDREG: the working registers take the running hash state (R131). -/
def execLdreg (s : State) : Host.Outcome State Fault Refusal := .next (setPc .round 0 (writeWr s.hs s))

/-- ROUND: one compression round at index `t` (R132). -/
def execRound (s : State) : Host.Outcome State Fault Refusal :=
  .next (advance .round .feed (writeWr (roundRegs s.wr romK[indexOf s.t] s.w[indexOf s.t]) s))

end Sys2Proof.Machine
end

