-- ==== Sys2Proof/Machine/Scheduler.lean ====
section
/-! DEFINITION. The message scheduler: the function `expand` (42_scheduler.md R120), LDBLK (R121), SCHED (R122). -/

namespace Sys2Proof.Machine

/-- A sequence of bytes as a block; a sequence of another length is a precondition violation, never padded or cut
(20_memory.md R55, 60_exceptions.md R162). -/
def listBlock (l : List Byte) : Except FaultCause Block :=
  if h : l.length = 64 then .ok ⟨l.toArray, by simpa using h⟩ else .error .precondBlockLen

/-- The entry derived at index `i`: `W[i-16] + s0 + W[i-7] + s1` (R120, R122). -/
def schedEntry (w : Schedule) (i : Fin 64) : Word :=
  add32 (add32 (add32 w[i.val - 16] (ssig0 w[i.val - 15])) w[i.val - 7]) (ssig1 w[i.val - 2])

/-- LDBLK on the array: `W[0..15]` from the block, `W[16..63]` as they were (R121). -/
def loadBlock (b : Block) (w : Schedule) : Schedule :=
  Vector.ofFn fun i => if h : i.val < 16 then blockWord b ⟨i.val, h⟩ else w[i.val]

/-- The array after `n` derived entries, indices 16 to 15 + n in this order (R120). -/
def expandLoop (w : Schedule) : Nat → Schedule
  | 0 => w
  | n + 1 =>
    if h : 16 + n < 64 then (expandLoop w n).set (16 + n) (schedEntry (expandLoop w n) ⟨16 + n, h⟩)
    else expandLoop w n

/-- `expand` of 64 bytes (R120): every entry it returns is a word of the block or derived from those before it. -/
def expandBlock (b : Block) : Schedule := expandLoop (loadBlock b (Vector.replicate 64 0)) 48

/-- `expand` on a sequence of bytes (R120, R162). -/
def expand (bytes : List Byte) : Except FaultCause Schedule := (listBlock bytes).map expandBlock

/-- LDBLK, the data movement of the accepting step of BLOCK (R121). -/
def ldblk (s : State) : State := writeW (loadBlock s.blockIn s.w) s

/-- SCHED: one schedule entry (R122). With `t` < 16, which no run reaches (10_state.md R37), the index `t - 16` does
not exist and the model stops (log entry 6). -/
def execSched (s : State) : Host.Outcome State Fault Refusal :=
  if 16 ≤ s.t.toNat then
    .next (advance .sched .ldreg (writeW (s.w.set (indexOf s.t) (schedEntry s.w (indexOf s.t))) s))
  else .fault (.scheduleIndex s.t)

end Sys2Proof.Machine
end

