-- ==== Sys2Proof/Machine/Accumulator.lean ====
section
/-! DEFINITION. The digest accumulator: NOP, INIT, BLOCK, FEED (44_accumulator.md R142 to R147). -/

namespace Sys2Proof.Machine

/-- The feed-forward: word j to word j, eight independent additions (R147). -/
def feedForward (hs out : State8) : State8 := Vector.ofFn fun j => add32 hs[j] out[j]

/-- NOP: every element of the state keeps its value (R142). -/
def execNop (s : State) : Host.Outcome State Fault Refusal := .next s

/-- INIT: begin a message (R143). -/
def execInit (s : State) : Host.Outcome State Fault Refusal :=
  .next (setPc .idle 0 (flagsInit (writeHs romIV s)))

/-- BLOCK: with `open` = 1 the accepting step (R144); with `open` = 0 the fault BLOCK_BEFORE_INIT, and LDBLK is not
performed (60_exceptions.md R163). -/
def execBlock (s : State) : Host.Outcome State Fault Refusal :=
  if s.isOpen then .next (setPc .sched 16 (flagsBlock (ldblk s))) else .next (raise .blockBeforeInit s)

/-- FEED: feed-forward (R147). -/
def execFeed (s : State) : Host.Outcome State Fault Refusal :=
  .next (setPc .idle 0 (flagsFeed (writeHs (feedForward s.hs s.wr) s)))

end Sys2Proof.Machine
end

