-- ==== Sys2Proof/Machine/FaultUnit.lean ====
section
/-! DEFINITION. The reserved command and the FAULT phase (60_exceptions.md R164, R167). -/

namespace Sys2Proof.Machine

/-- RSVD3: the fault RESERVED_CMD, whatever `open` is (R164). -/
def execRsvd3 (s : State) : Host.Outcome State Fault Refusal := .next (raise .reservedCmd s)

/-- HALT: a step in phase FAULT changes nothing (R167). -/
def execHalt (s : State) : Host.Outcome State Fault Refusal := .next s

end Sys2Proof.Machine
end

