-- ==== Sys2Proof/Machine/Dispatch.lean ====
section
/-! DEFINITION. The dispatch: one arm per operation of the decode table (30_encoding.md R72, 44_accumulator.md R141). -/

namespace Sys2Proof.Machine

def exec (i : Instr) (s : State) : Host.Outcome State Fault Refusal :=
  match i with
  | .nop => Sys2Proof.Machine.execNop s
  | .init => Sys2Proof.Machine.execInit s
  | .block => Sys2Proof.Machine.execBlock s
  | .rsvd3 => Sys2Proof.Machine.execRsvd3 s
  | .sched _ => Sys2Proof.Machine.execSched s
  | .ldreg _ => Sys2Proof.Machine.execLdreg s
  | .round _ => Sys2Proof.Machine.execRound s
  | .feed _ => Sys2Proof.Machine.execFeed s
  | .halt _ => Sys2Proof.Machine.execHalt s

end Sys2Proof.Machine
end

