-- ==== Sys2Proof/Machine/Step.lean ====
section
/-! DEFINITION. One step of the machine (44_accumulator.md R141): the host's move, then the operation the decode word
selects. -/

namespace Sys2Proof.Machine

/-- Run the operation that the phase and the command port select (R70, R72). A word without a row, which no phase
gives, stops the model (log entry 7). -/
def runDecoded (s : State) : Host.Outcome State Fault Refusal :=
  match decode (decodeWord s) with
  | .ok i => exec i s
  | .error (.unreachablePhase code) => .fault (.noRow code)

/-- One step: the reset event if the host applies it now (R190), else one step of the core on the port values the
host drives (R11, R141; log entry 5). -/
def step (s : State) : Host.Outcome State Fault Refusal :=
  match hostMove s with
  | .resetApplied s' => .next s'
  | .sampled s' => runDecoded s'

/-- `n` steps, up to the first stop. -/
def steps : Nat → State → Host.Outcome State Fault Refusal
  | 0, s => .next s
  | n + 1, s =>
    match step s with
    | .next s' => steps n s'
    | .fault r => .fault r
    | .refused r => .refused r

/-- The first index of a phase: 16 in SCHED, 0 elsewhere (10_state.md R29). -/
def entryIndex (p : Phase) : BitVec 6 :=
  match p with
  | .sched => 16
  | .idle | .ldreg | .round | .feed | .fault => 0

/-- Place a decode word where the next step takes it: the phase, the counter at that phase's first index when the
phase changes, and the command as the host's next move. A number that is no decode word places nothing (log entry 17). -/
def State.withFetchWord (s : State) (nbits w : Nat) : State :=
  match tableWord nbits w with
  | none => s
  | some dw =>
    match phaseOfCode (phaseField dw) with
    | none => s
    | some p =>
      { s with
        phase := p
        t := if s.phase = p then s.t else entryIndex p
        pending := .drive (cmdField dw) s.blockIn :: s.pending }

end Sys2Proof.Machine
end

