-- ==== Sys2Proof/Machine/HostDuties.lean ====
section
/-! DEFINITION. The host's duties (41_padder_host.md R110 to R116) and the function `hash` (44_accumulator.md R140),
which joins them to the block's functions. -/

namespace Sys2Proof.Machine

/-- `len64_be(n)`: eight bytes, most significant first (R111). -/
def len64Be (n : Nat) : List Byte :=
  (List.range 8).map fun k => (BitVec.ofNat 64 n).extractLsb' (56 - 8 * k) 8

/-- The number of zero bytes after the 0x80 byte, with `len = L + 1`: `(64 - 8 - (len mod 64)) mod 64`, the
mathematical mod (R110, 90_conflicts.md C2). -/
def zeroCount (messageLength : Nat) : Nat := ((64 - 8 - ((messageLength + 1 : Nat) % 64 : Int)) % 64).toNat

/-- `pad` (R110); 2^61 bytes or more are refused, never reduced (R112). -/
def pad (m : List Byte) : Except FaultCause (List Byte) :=
  if 2 ^ 61 ≤ m.length then .error .unsupportedInput
  else .ok (m ++ [0x80#8] ++ List.replicate (zeroCount m.length) 0x00#8 ++ len64Be (8 * m.length))

/-- The 64-byte windows of a padded message, in order (R114). -/
def windows (p : List Byte) : List (List Byte) :=
  (List.range (p.length / 64)).map fun q => (p.drop (64 * q)).take 64

/-- The blocks the host presents for a message, first one first (R114); a message of 2^61 bytes or more has none and is
refused (R112). -/
def messageBlocks (m : List Byte) : Except FaultCause (List Block) := do
  let p ← pad m
  (windows p).mapM listBlock

/-- The lowercase digit of a nibble (R115). -/
def hexDigit (n : BitVec 4) : Char :=
  ['0', '1', '2', '3', '4', '5', '6', '7', '8', '9', 'a', 'b', 'c', 'd', 'e', 'f'].getD n.toNat '0'

/-- A byte as two digits, high nibble first (R115; log entry 12). -/
def hexByte (b : Byte) : List Char := [hexDigit (b.extractLsb' 4 4), hexDigit (b.extractLsb' 0 4)]

/-- `hex`: 64 characters, `Dg[0]` first (R115). -/
def hex (d : Digest) : List Char := d.toList.flatMap hexByte

/-- A text as bytes (R116): an ASCII character is one byte with its code (log entry 12); for other text the host's
parameter decides (log entry 13). -/
def textBytes (txt : List Char) : List Byte :=
  if txt.all (fun c => c.toNat < 128) then txt.map fun c => BitVec.ofNat 8 c.toNat
  else Config.textEncoding txt

/-- One block of `hash`: schedule, compression, feed-forward (R140). -/
def absorb (hs : State8) (bytes : List Byte) : Except FaultCause State8 := do
  let w ← expand bytes
  let out ← compress w.toList hs
  return feedForward hs out

/-- `hash` (R140): the digest of a message as 64 lowercase hexadecimal characters. -/
def hashMessage (m : List Byte) : Except FaultCause (List Char) := do
  let p ← pad m
  let hs ← (windows p).foldlM absorb romIV
  return hex (render hs)

/-- `hash` of a text (R116, R140). -/
def hashText (txt : List Char) : Except FaultCause (List Char) := hashMessage (textBytes txt)

end Sys2Proof.Machine
end

