-- ==== Sys2Proof/Machine/Ports.lean ====
section
/-! DEFINITION. The output ports: pure functions of the state; reading them changes nothing (10_state.md R33). -/

namespace Sys2Proof.Machine

/-- `ready`: 1 exactly when the phase is IDLE (R33). -/
def ready (s : State) : Bool := s.phase == .idle

/-- `digest_valid`: equal to `dv` (R33). -/
def digestValid (s : State) : Bool := s.dv

/-- `digest_out`: the rendering of `HS` (R33, 44_accumulator.md R148). It means nothing while `digest_valid` = 0
(R149; log entry 10). -/
def digestOut (s : State) : Digest := render s.hs

/-- `fault`: 1 exactly when the phase is FAULT (R33). -/
def faultOut (s : State) : Bool := s.phase == .fault

/-- `fault_code`: equal to `fcode` (R33). -/
def faultCodeOut (s : State) : BitVec 3 := s.fcode

/-- DIGEST: the host reads `digest_out`; legal only while `digest_valid` = 1 (30_encoding.md R79,
70_reset_and_hazards.md R198). -/
def readDigest (s : State) : Option Digest := if digestValid s then some (digestOut s) else none

/-- The complete state of R20, without the ports and without the model's own fields. -/
structure Elements where
  wr     : State8
  hs     : State8
  w      : Schedule
  phase  : Phase
  t      : BitVec 6
  isOpen : Bool
  dv     : Bool
  fcode  : BitVec 3
  deriving DecidableEq, Repr

/-- The elements of R20 that a state holds. -/
def elements (s : State) : Elements :=
  ⟨s.wr, s.hs, s.w, s.phase, s.t, s.isOpen, s.dv, s.fcode⟩

end Sys2Proof.Machine
end

