-- ==== Sys2Proof/Machine/HostAgent.lean ====
section
/-! DEFINITION. The host that keeps the table of 70_reset_and_hazards.md R200, and the whole sequence of R192 with its
step 3. It chooses a `HostAct` for each move; what then stands on the ports follows from its work, so the moves of R200's
last column cannot be made. -/

namespace Sys2Proof.Machine

/-- What the host has to do (R192, R200). -/
structure HostWork where
  /-- The reset event must come before any command: before first use and after any fault (R200). -/
  resetDue : Bool
  /-- A command was presented and not accepted: it must stay on `cmd` until a step with `ready` = 1 (R194). -/
  holding  : Bool
  /-- The message that INIT has begun and whose digest is not read yet. -/
  begun    : Option (List Byte)
  /-- The blocks of that message not accepted yet, in order (R196). -/
  rest     : List Block
  /-- The messages not begun, in order. -/
  later    : List (List Byte)
  /-- The digests read, first one first. -/
  digests  : List Digest
  /-- The error the host has reported (60_exceptions.md R165), if it has reported one. -/
  report   : Option FaultCause
  deriving DecidableEq, Repr

/-- Before first use: reset is due and every message is still to come. -/
def HostWork.start (ms : List (List Byte)) : HostWork where
  resetDue := true
  holding := false
  begun := none
  rest := []
  later := ms
  digests := []
  report := none

/-- The digest of the message begun is read when its last block is in and `digest_valid` = 1, at no other time (R192
step 2.5, R198). -/
def HostWork.readResult (s : State) (w : HostWork) : HostWork :=
  if w.begun.isSome && w.rest.isEmpty then
    match readDigest s with
    | some d => { w with begun := none, digests := w.digests ++ [d] }
    | none => w
  else w

/-- Between messages the host takes up the next one: if it is too large the host reports the error and stops, so it never
presents anything of that message, nor of a later one (R192 step 2.1, 60_exceptions.md R165; log entry 23). -/
def HostWork.refuse (w : HostWork) : HostWork :=
  if w.resetDue || w.begun.isSome then w
  else
    match w.later with
    | [] => w
    | m :: _ =>
      match messageBlocks m with
      | .ok _ => w
      | .error c => { w with later := [], report := some c }

/-- The host looks at the outputs before it moves. With `fault` = 1, at any time, the run has failed (R192 step 3). -/
def HostWork.observe (s : State) (w : HostWork) : HostWork :=
  if faultOut s then { w with resetDue := true, holding := false } else (w.readResult s).refuse

/-- INIT and the blocks to follow it, if there is a next message and it is supported (R192 steps 2.2 and 2.3). -/
def HostWork.nextMessage (w : HostWork) : Option (List Byte × List Block) :=
  match w.later with
  | [] => none
  | m :: _ =>
    match messageBlocks m with
    | .ok bs => some (m, bs)
    | .error _ => none

/-- The command the work asks for next, with its block if it is BLOCK: the blocks of the message begun, in order, then
INIT for the next message (R196, R197); none while a reset is due. -/
def HostWork.due (w : HostWork) : Option (CmdCode × Option Block) :=
  if w.resetDue then none
  else
    match w.rest with
    | b :: _ => some (cmdBlock, some b)
    | [] => w.nextMessage.map fun _ => (cmdInit, none)

/-- The command presented in a move: a command being held stays, whatever the host would like (R194). -/
def HostWork.presented (w : HostWork) (a : HostAct) : Option (CmdCode × Option Block) :=
  match a with
  | .reset => none
  | .idle _ => if w.holding then w.due else none
  | .request _ => w.due

/-- What stands on the ports: NOP where nothing is presented; the block of a BLOCK in the accepting step, and anything on
the block port outside it (R200). -/
def HostWork.event (s : State) (w : HostWork) (a : HostAct) : HostEvent :=
  match a with
  | .reset => .reset
  | .idle free | .request free =>
    match w.presented a with
    | none => .drive cmdNop free
    | some (c, none) => .drive c free
    | some (c, some b) => .drive c (if ready s then b else free)

/-- The work after the command due has been accepted. -/
def HostWork.accepted (w : HostWork) : HostWork :=
  match w.rest with
  | _ :: bs => { w with rest := bs, holding := false }
  | [] =>
    match w.nextMessage with
    | some (m, bs) => { w with begun := some m, rest := bs, later := w.later.tail, holding := false }
    | none => w

/-- The work after a reset event: a message begun is lost and must be begun again from its first block (R191, R192
step 3; log entry 23). -/
def HostWork.afterReset (w : HostWork) : HostWork :=
  { w with resetDue := false, holding := false, begun := none, rest := [], later := w.begun.toList ++ w.later }

/-- The work after a move: a command presented is accepted in a step with `ready` = 1 and held otherwise (R194). -/
def HostWork.moved (s : State) (w : HostWork) (a : HostAct) : HostWork :=
  match a with
  | .reset => w.afterReset
  | .idle _ | .request _ =>
    match w.presented a with
    | none => w
    | some _ => if ready s then w.accepted else { w with holding := true }

/-- A host and the one core it drives (R178: two hosts must not drive one instance). -/
structure Session where
  host : HostWork
  core : State
  deriving DecidableEq, Repr

/-- The move the host makes on the ports when it chooses `a`. -/
def Session.move (a : HostAct) (x : Session) : HostEvent := (x.host.observe x.core).event x.core a

/-- One move of the host and the step of the core it stands for. -/
def Session.act (a : HostAct) (x : Session) : Host.Outcome Session Fault Refusal :=
  match step { x.core with pending := [x.move a] } with
  | .next s => .next ⟨(x.host.observe x.core).moved x.core a, s⟩
  | .fault r => .fault r
  | .refused r => .refused r

/-- The host's choices in order. -/
def Session.run : List HostAct → Session → Host.Outcome Session Fault Refusal
  | [], x => .next x
  | a :: as, x =>
    match x.act a with
    | .next y => y.run as
    | .fault r => .fault r
    | .refused r => .refused r

/-- The moves on the ports that the host's choices make, up to a stop of the model. -/
def Session.moves : List HostAct → Session → List HostEvent
  | [], _ => []
  | a :: as, x =>
    x.move a ::
      match x.act a with
      | .next y => y.moves as
      | .fault _ | .refused _ => []

/-- The digests the host has read, the outputs of the present state included. -/
def Session.results (x : Session) : List Digest := (x.host.observe x.core).digests

/-- The error the host has reported, the present state taken into account (60_exceptions.md R165). -/
def Session.reported (x : Session) : Option FaultCause := (x.host.observe x.core).report

/-- The choice of a host that follows R192 and never idles: reset when it is due (step 1, and step 3 "go to 1"), else the
next command (step 2). -/
def Session.diligent (x : Session) : HostAct :=
  if (x.host.observe x.core).resetDue then .reset else .request (Vector.replicate 64 0)

/-- `n` moves of the sequence of R192. A failed run goes back to step 1 however often it fails; `n` only bounds how far
it is followed (log entry 23). -/
def Session.serve : Nat → Session → Host.Outcome Session Fault Refusal
  | 0, x => .next x
  | n + 1, x =>
    match x.act x.diligent with
    | .next y => y.serve n
    | .fault r => .fault r
    | .refused r => .refused r

/-- How many moves the sequence takes for messages of these lengths if nothing fails (R201): the reset event, which the
model counts (log entry 5), and for each message INIT and its blocks. -/
def sessionMoves (ms : List (List Byte)) : Nat :=
  1 + (ms.map fun m => 1 + Config.stepsPerBlock * ((m.length + 8) / 64 + 1)).sum

end Sys2Proof.Machine
end

