-- ==== Sys2Proof/Machine/Platform.lean ====
section
/-! DEFINITION. Several core instances side by side (60_exceptions.md R178, 92_eei_decisions.md D14): they share
nothing but the ROMs, which are constants, so a step of one touches one. -/

namespace Sys2Proof.Machine

/-- The cores of a platform. -/
structure Platform where
  cores : List State
  deriving DecidableEq, Repr

/-- A platform right after reset: the default number of cores (R7), each after its own reset. What `HS`, `W` and `wr`
of the cores hold then is open in the spec; the model's choice is free words of its own for each core, so nothing says
that two cores hold the same ones (log entry 19). Core 0 is `State.reset`. -/
def Platform.reset : Platform :=
  ⟨(List.range Config.coreCount).map fun k => resetEvent { State.reset with draws := k * wordsPerReset }⟩

/-- One step of core `k`; there is no core beyond the list, so nothing happens there. A stop of a core leaves that
core where it stood. -/
def stepCore (k : Nat) (p : Platform) : Platform :=
  match p.cores[k]? with
  | none => p
  | some s =>
    match step s with
    | .next s' => ⟨p.cores.set k s'⟩
    | .fault _ => p
    | .refused _ => p

end Sys2Proof.Machine
end

