-- ==== Sys2Proof/Machine/Trace.lean ====
section
/-! DEFINITION. Host traces and pseudo-operations (30_encoding.md R78, R79), the start-up sequence of a message as
a program (70_reset_and_hazards.md R192, steps 1 and 2). A trace is the whole of what the host does: it replaces the
moves a state holds (log entry 16). -/

namespace Sys2Proof.Machine

/-- Go on from the next state of an outcome. -/
def andThen (o : Host.Outcome State Fault Refusal) (f : State → Host.Outcome State Fault Refusal) :
    Host.Outcome State Fault Refusal :=
  match o with
  | .next s => f s
  | .fault r => .fault r
  | .refused r => .refused r

/-- One step with the given port values: the `step(S, cmd, B)` of 00_scope.md R11. -/
def stepWith (c : CmdCode) (b : Block) (s : State) : Host.Outcome State Fault Refusal :=
  step { s with pending := [.drive c b] }

/-- The reset event, applied now. -/
def resetNow (s : State) : Host.Outcome State Fault Refusal := step { s with pending := [.reset] }

/-- One step with `cmd` = 00 and the block port as it is. -/
def nopStep (s : State) : Host.Outcome State Fault Refusal := stepWith cmdNop s.blockIn s

/-- `n` steps with `cmd` = 00, whatever the phase (R78). -/
def nopSteps : Nat → State → Host.Outcome State Fault Refusal
  | 0, s => .next s
  | n + 1, s => andThen (nopStep s) (nopSteps n)

/-- Steps with `cmd` = 00 until `ready` = 1 or `fault` = 1, at most `fuel` of them (R79 WAIT). -/
def waitFuel : Nat → State → Host.Outcome State Fault Refusal
  | 0, s => .next s
  | n + 1, s => if ready s || faultOut s then .next s else andThen (nopStep s) (waitFuel n)

/-- How many steps the block still needs, read off the position (R29): the fuel that lets a wait end by itself
(log entry 16). -/
def busySteps (s : State) : Nat :=
  match s.phase with
  | .idle | .fault => 0
  | .sched => (64 - s.t.toNat) + 66
  | .ldreg => 66
  | .round => (64 - s.t.toNat) + 1
  | .feed => 1

/-- WAIT: zero steps if `ready` = 1 or `fault` = 1 already (R79). -/
def waitReady (s : State) : Host.Outcome State Fault Refusal := waitFuel (busySteps s) s

/-- The encoding of an item: its 2-bit `cmd` value followed, for BLOCK, by the 64 bytes, `B[0]` first (R78). RESET has
no `cmd` value; the steps of NOP n and of WAIT (R79) all show 00. -/
def itemEncoding (i : TraceItem) : Option (CmdCode × List Byte) :=
  match i with
  | .reset => none
  | .init => some (cmdInit, [])
  | .block b => some (cmdBlock, b.toList)
  | .rsvd3 => some (cmdRsvd3, [])
  | .nop _ | .wait => some (cmdNop, [])

/-- Wait for `ready`, then present a command for exactly one step; with `fault` = 1 it is never presented (R78). -/
def present (c : CmdCode) (b : Option Block) (s : State) : Host.Outcome State Fault Refusal :=
  andThen (waitReady s) fun s' => if ready s' then stepWith c (b.getD s'.blockIn) s' else .next s'

/-- One item of a trace (R78, R79). -/
def runItem (i : TraceItem) (s : State) : Host.Outcome State Fault Refusal :=
  match i with
  | .reset => resetNow s
  | .init => present cmdInit none s
  | .block b => present cmdBlock (some b) s
  | .rsvd3 => present cmdRsvd3 none s
  | .nop n => nopSteps n s
  | .wait => waitReady s

/-- The items of a trace in order (R78). -/
def runItems : List TraceItem → State → Host.Outcome State Fault Refusal
  | [], s => .next s
  | i :: is, s => andThen (runItem i s) (runItems is)

/-- A whole trace: the items, then steps with `cmd` = 00 until `ready` = 1 or `fault` = 1 (R78). -/
def runTrace (is : List TraceItem) (s : State) : Host.Outcome State Fault Refusal :=
  andThen (runItems is s) waitReady

/-- HASH: INIT, then one BLOCK for each 64-byte block of `pad(m)`, first block first (R79, R114); no command at all
for an unsupported message (R112). -/
def hashItems (m : List Byte) : Except FaultCause (List TraceItem) := do
  let bs ← messageBlocks m
  return .init :: bs.map .block

/-- Why the host ends a program before its last line. -/
inductive HostStop where
  /-- A HASH of an unsupported message (R165), or of a window that is not 64 bytes (R162). -/
  | cause (c : FaultCause)
  /-- DIGEST while `digest_valid` = 0 (R79, R198). -/
  | digestNotValid
  /-- The model stopped with a fault of its own. -/
  | stopped (f : Fault)
  /-- The model refused. -/
  | refused (r : Refusal)
  deriving DecidableEq, Repr

/-- An outcome as a result of the host's. -/
def hostResult (o : Host.Outcome State Fault Refusal) : Except HostStop State :=
  match o with
  | .next s => .ok s
  | .fault f => .error (.stopped f)
  | .refused r => .error (.refused r)

/-- One line of a program: the state after it, and the digest it read, if it read one. DEDUCED (log entry 24): a HASH line
runs its expansion and nothing more, INIT and the blocks; R79 speaks of its result "when `ready` = 1 after the last
block" and does not say that the line itself waits for that, so a program writes WAIT before DIGEST. -/
def runLine (l : TraceLine) (s : State) : Except HostStop (State × Option Digest) :=
  match l with
  | .item i => (hostResult (runItem i s)).map fun s' => (s', none)
  | .hash m =>
    match hashItems m with
    | .error c => .error (.cause c)
    | .ok is => (hostResult (runItems is s)).map fun s' => (s', none)
  | .digest =>
    match readDigest s with
    | none => .error .digestNotValid
    | some d => .ok (s, some d)

/-- A program: its lines in order, then the last wait (R78); the digests it read, first one first. -/
def runProgram : List TraceLine → State → Except HostStop (State × List Digest)
  | [], s => (hostResult (waitReady s)).map fun s' => (s', [])
  | l :: ls, s =>
    match runLine l s with
    | .error e => .error e
    | .ok (s', d) => (runProgram ls s').map fun r => (r.1, d.toList ++ r.2)

/-- Steps 1 and 2 of 70_reset_and_hazards.md R192 as a program: reset once, then for each message HASH, the wait for
`ready` and the reading of its digest. A program cannot branch on `fault`; the whole of R192, with step 3, is `Session.serve`
(`Machine/HostAgent.lean`). -/
def hostSession (ms : List (List Byte)) : List TraceLine :=
  .item .reset :: ms.flatMap fun m => [.hash m, .item .wait, .digest]

/-- The moves of a host that never idles: INIT, then each block followed by the 114 steps it takes (R192, R201). -/
def messageEvents (bs : List Block) : List HostEvent :=
  .drive cmdInit (Vector.replicate 64 0)
    :: bs.flatMap fun b => .drive cmdBlock b :: List.replicate (Config.stepsPerBlock - 1) (.drive cmdNop b)

end Sys2Proof.Machine
end

