-- ==== Sys2Proof/WellFormed.lean ====
section
/-! DEFINITION. Well-formedness. An operation takes nothing from its word but bits that are not looked at
(30_encoding.md R73), so every operation is well formed; a trace line is checked for the bounds R78 and R112 put on it. -/

namespace Sys2Proof

/-- Every operation is well formed: its field has exactly the two bits the word gives it (R72, R73). -/
def Instr.wellFormed (i : Instr) : Bool :=
  match i with
  | .nop | .init | .block | .rsvd3 => true
  | .sched _ | .ldreg _ | .round _ | .feed _ | .halt _ => true

/-- `NOP n` needs n >= 1 (R78). -/
def TraceItem.wellFormed (i : TraceItem) : Bool :=
  match i with
  | .nop n => decide (1 ≤ n)
  | .reset | .init | .block _ | .rsvd3 | .wait => true

/-- A message of `HASH` has fewer than 2^61 bytes (R112). -/
def TraceLine.wellFormed (l : TraceLine) : Bool :=
  match l with
  | .item i => i.wellFormed
  | .hash m => decide (m.length < 2 ^ 61)
  | .digest => true

end Sys2Proof
end

