-- ==== Sys2Proof/Machine/TraceSyntax.lean ====
section
/-! DEFINITION. The text of a trace: one item a line, `;` starts a comment (30_encoding.md R78), and the
pseudo-operations (R79). What the spec does not say of spaces and digit case is log entry 20. -/

namespace Sys2Proof.Machine

/-- The value of a hexadecimal digit. -/
def hexValue (c : Char) : Option (BitVec 4) :=
  if '0' ≤ c ∧ c ≤ '9' then some (BitVec.ofNat 4 (c.toNat - 48))
  else if 'a' ≤ c ∧ c ≤ 'f' then some (BitVec.ofNat 4 (c.toNat - 87))
  else if 'A' ≤ c ∧ c ≤ 'F' then some (BitVec.ofNat 4 (c.toNat - 55))
  else none

/-- Bytes written as pairs of digits, high nibble first, up to the first character that is no digit. -/
def takeHex : List Char → List Byte × List Char
  | c :: d :: cs =>
    match hexValue c, hexValue d with
    | some hi, some lo => ((hi ++ lo) :: (takeHex cs).1, (takeHex cs).2)
    | _, _ => ([], c :: d :: cs)
  | cs => ([], cs)

/-- The text without the spaces it begins with. -/
def skipSpaces (cs : List Char) : List Char := cs.dropWhile (· == ' ')

/-- Nothing but spaces and a comment is left. -/
def atEnd (cs : List Char) : Bool :=
  match skipSpaces cs with
  | [] => true
  | c :: _ => c == ';'

/-- A result, if nothing but spaces and a comment is left. -/
def finish {α : Type} (a : α) (rest : List Char) : Option α := if atEnd rest then some a else none

/-- The argument of a keyword: at least one space, then the text. -/
def argument (cs : List Char) : Option (List Char) :=
  match cs with
  | ' ' :: rest => some (skipSpaces rest)
  | _ => none

/-- A decimal number. -/
def decimalValue (ds : List Char) : Nat := ds.foldl (fun n d => 10 * n + (d.toNat - 48)) 0

/-- `<n>` after NOP; left out it is 1, and it is at least 1 (R78). -/
def parseNop (cs : List Char) : Option TraceLine :=
  if atEnd cs then some (.item (.nop 1))
  else (argument cs).bind fun a =>
    if 1 ≤ decimalValue (a.takeWhile Char.isDigit) then
      finish (.item (.nop (decimalValue (a.takeWhile Char.isDigit)))) (a.dropWhile Char.isDigit)
    else none

/-- The 128 digits after BLOCK (R78), on its line; `joinBlocks` brings them there from the lines under it. -/
def parseBlock (cs : List Char) : Option TraceLine :=
  (argument cs).bind fun a =>
    match listBlock (takeHex a).1 with
    | .ok b => finish (.item (.block b)) (takeHex a).2
    | .error _ => none

/-- `<message>` after HASH: a double-quoted ASCII string, or `x` and digits (R79). DESIGN CHOICE (log entry 20): inside
the quotes `;` is a character of the message and starts no comment; R78 says that `;` starts a comment, R79 that the
string is any ASCII text, and neither says which comes first. -/
def parseHash (cs : List Char) : Option TraceLine :=
  (argument cs).bind fun a =>
    match a with
    | 'x' :: h => finish (.hash (takeHex h).1) (takeHex h).2
    | '"' :: q =>
      if (q.takeWhile (· != '"')).all (fun c => c.toNat < 128) then
        match q.dropWhile (· != '"') with
        | _ :: rest => finish (.hash (textBytes (q.takeWhile (· != '"')))) rest
        | [] => none
      else none
    | _ => none

/-- The keywords of a trace line, each with the reading of what follows it (R78, R79). -/
def keywords : List (List Char × (List Char → Option TraceLine)) :=
  [ (['R', 'E', 'S', 'E', 'T'], finish (.item .reset)),
    (['I', 'N', 'I', 'T'], finish (.item .init)),
    (['B', 'L', 'O', 'C', 'K'], parseBlock),
    (['R', 'S', 'V', 'D', '3'], finish (.item .rsvd3)),
    (['N', 'O', 'P'], parseNop),
    (['H', 'A', 'S', 'H'], parseHash),
    (['W', 'A', 'I', 'T'], finish (.item .wait)),
    (['D', 'I', 'G', 'E', 'S', 'T'], finish .digest) ]

/-- Read one line; none if it is no trace line. -/
def parseLine (cs : List Char) : Option TraceLine :=
  keywords.findSome? fun k => (k.1.isPrefixOf? (skipSpaces cs)).bind k.2

/-- A line that is BLOCK with no digits. -/
def bareBlock (cs : List Char) : Bool :=
  match ['B', 'L', 'O', 'C', 'K'].isPrefixOf? (skipSpaces cs) with
  | some rest => atEnd rest
  | none => false

/-- A line that is 32 bytes in digits. -/
def halfBlock (cs : List Char) : Bool :=
  (takeHex (skipSpaces cs)).1.length == 32 && atEnd (takeHex (skipSpaces cs)).2

/-- BLOCK with its digits on the two lines under it, 32 bytes each, as one line. DESIGN CHOICE (log entry 20): R78 says one
item per line, and the programs of 95_test_vectors.md section 9, "in the syntax of" R78, are written so; both forms are
read. -/
def joinBlocks : List (List Char) → List (List Char)
  | l :: first :: second :: ls =>
    if bareBlock l && halfBlock first && halfBlock second then
      (['B', 'L', 'O', 'C', 'K', ' '] ++ (skipSpaces first).take 64 ++ skipSpaces second) :: joinBlocks ls
    else l :: joinBlocks (first :: second :: ls)
  | ls => ls

/-- Read a text, a list of lines; lines that hold nothing but a comment are passed over (R78). -/
def parseText (lines : List (List Char)) : Option (List TraceLine) :=
  (joinBlocks (lines.filter fun l => !atEnd l)).mapM parseLine

/-- A number in decimal. -/
def decimalDigits (n : Nat) : List Char := (Nat.digits 10 n).reverse.map fun d => Char.ofNat (48 + d)

/-- Write one line; a message is written in digits. -/
def printLine (l : TraceLine) : List Char :=
  match l with
  | .item .reset => ['R', 'E', 'S', 'E', 'T']
  | .item .init => ['I', 'N', 'I', 'T']
  | .item (.block b) => ['B', 'L', 'O', 'C', 'K', ' '] ++ b.toList.flatMap hexByte
  | .item .rsvd3 => ['R', 'S', 'V', 'D', '3']
  | .item (.nop n) => ['N', 'O', 'P', ' '] ++ decimalDigits n
  | .item .wait => ['W', 'A', 'I', 'T']
  | .hash m => ['H', 'A', 'S', 'H', ' ', 'x'] ++ m.flatMap hexByte
  | .digest => ['D', 'I', 'G', 'E', 'S', 'T']

end Sys2Proof.Machine
end

