-- ==== Sys2Proof/Safety.lean ====
section
/-! DEFINITION. What counts as a safe state and a safe run: the invariants of 10_state.md section 10 that speak of the
position, the flags and the fault code; when two states agree on every element that holds a value; a failed run
(60_exceptions.md R167); the host's discipline (70_reset_and_hazards.md R200). -/

namespace Sys2Proof.Machine

/-- The position is inside a block: SCHED, LDREG, ROUND or FEED. -/
def busy (s : State) : Prop := s.phase = .sched ∨ s.phase = .ldreg ∨ s.phase = .round ∨ s.phase = .feed

/-- Invariants 2 to 5 of R37 and the last sentence of R161. Invariant 1 is the type `Phase`. -/
structure Inv (s : State) : Prop where
  schedIndex : s.phase = .sched → 16 ≤ s.t.toNat
  zeroIndex  : s.phase ≠ .sched → s.phase ≠ .round → s.t = 0
  inBlock    : busy s → s.isOpen = true ∧ s.dv = false ∧ s.fcode = 0
  valid      : s.dv = true → s.phase = .idle ∧ s.isOpen = true
  faultIff   : s.phase = .fault ↔ s.fcode ≠ 0
  inFault    : s.phase = .fault → s.isOpen = false ∧ s.dv = false
  codes      : s.fcode = 0 ∨ s.fcode = faultCode .blockBeforeInit ∨ s.fcode = faultCode .reservedCmd

/-- Two states agree on every element that holds a value by invariants 6 to 8 of R37, on the ports and on the host's
moves; the elements that hold none (R36, U10) may differ. -/
structure SameDefined (s u : State) : Prop where
  phase   : s.phase = u.phase
  t       : s.t = u.t
  isOpen  : s.isOpen = u.isOpen
  dv      : s.dv = u.dv
  fcode   : s.fcode = u.fcode
  pending : s.pending = u.pending
  hs      : s.isOpen = true → s.hs = u.hs
  wBelow  : s.phase = .sched → ∀ i : Fin 64, i.val < s.t.toNat → s.w[i] = u.w[i]
  wAll    : s.phase = .ldreg ∨ s.phase = .round ∨ s.phase = .feed → s.w = u.w
  wr      : s.phase = .round ∨ s.phase = .feed → s.wr = u.wr

/-- A run that reaches FAULT is a failed run, not a final state (R167). -/
def failed (s : State) : Prop := s.phase = .fault

/-- The end of a successful run of one message, as far as the outputs show it (70_reset_and_hazards.md R193). -/
def complete (s : State) : Prop := ready s = true ∧ digestValid s = true ∧ faultOut s = false

/-- The host's next move is the reset event (R11, R190). -/
def resetNext (s : State) : Bool :=
  match s.pending with
  | .reset :: _ => true
  | .drive _ _ :: _ | [] => false

/-- The command the next step of the core samples; a host with nothing left to ask shows NOP (log entry 3). -/
def sampledCmd (s : State) : CmdCode :=
  match s.pending with
  | .drive c _ :: _ => c
  | .reset :: _ | [] => cmdNop

/-- The next step of the core samples command `c` in phase IDLE, that is, accepts it (00_scope.md glossary). -/
def accepts (c : CmdCode) (s : State) : Prop := resetNext s = false ∧ s.phase = .idle ∧ sampledCmd s = c

/-- The next step of the core enters FAULT by one of the two conditions of R163 and R164. -/
def faultsNext (s : State) : Prop := (accepts cmdBlock s ∧ s.isOpen = false) ∨ accepts cmdRsvd3 s

/-- The host applies no reset event in its next `n` moves. -/
def noReset (n : Nat) (s : State) : Prop := ∀ e ∈ s.pending.take n, e ≠ .reset

/-- The part of R200 that keeps one move from a fault: the reserved code is never presented, and a block only after
INIT. The whole table is `HostWork` in `Machine/HostAgent.lean`, and `keepsDuties` below. -/
def disciplined (s : State) : Prop :=
  ∀ c b es, s.pending = .drive c b :: es →
    c ≠ cmdRsvd3 ∧ (s.phase = .idle → c = cmdBlock → s.isOpen = true)

/-- The host's duty of R200, the named premise of decision D8: the moves still to come are those of a host that keeps
the whole table, from before its first use of the core on. -/
def keepsDuties (s : State) : Prop :=
  ∃ (ms : List (List Byte)) (acts : List HostAct), s.pending = Session.moves acts ⟨HostWork.start ms, s⟩

end Sys2Proof.Machine
end

