-- ==== Sys2Proof/Certificates/Slice0/Obligations.lean ====
section
/-! DEFINITION. The statements for the provers. Each docstring names the rule of spec/ it formalises, or says what it
rests on. The block has no memory of addressed bytes (20_memory.md R50): where a frame would speak of memory, these
statements speak of the register files `wr`, `HS`, `W` whole, by equations between states. -/

open Sys2Proof Sys2Proof.Machine

/-! ### Encodings -/

/-- 30_encoding.md sections 1 and 3: the encoder and the decoder are inverse on every operation and on every word that
has a row. -/
def Obligations.DecodeInvertsEncode : Prop :=
  (∀ i : Instr, decode (encode i) = .ok i) ∧
  (∀ (dw : DecodeWord) (i : Instr), decode dw = .ok i → encode i = dw) ∧
  (∀ i : Instr, decodeTableWord 8 (encode i).toNat = some i)

/-- 30_encoding.md section 1 (the table of R72) and 95_test_vectors.md Q1: what each of the 32 decode words selects, by
its phase bits and, in phase 000, its command bits. -/
def Obligations.DecodeTableIsTotal : Prop :=
  ∀ dw : DecodeWord,
    (phaseField dw = 0b000#3 → cmdField dw = 0b00#2 → decode dw = .ok .nop) ∧
    (phaseField dw = 0b000#3 → cmdField dw = 0b01#2 → decode dw = .ok .init) ∧
    (phaseField dw = 0b000#3 → cmdField dw = 0b10#2 → decode dw = .ok .block) ∧
    (phaseField dw = 0b000#3 → cmdField dw = 0b11#2 → decode dw = .ok .rsvd3) ∧
    (phaseField dw = 0b001#3 → decode dw = .ok (.sched (cmdField dw))) ∧
    (phaseField dw = 0b010#3 → decode dw = .ok (.ldreg (cmdField dw))) ∧
    (phaseField dw = 0b011#3 → decode dw = .ok (.round (cmdField dw))) ∧
    (phaseField dw = 0b100#3 → decode dw = .ok (.feed (cmdField dw))) ∧
    (phaseField dw = 0b101#3 → decode dw = .error (.unreachablePhase 0b101#3)) ∧
    (phaseField dw = 0b110#3 → decode dw = .error (.unreachablePhase 0b110#3)) ∧
    (phaseField dw = 0b111#3 → decode dw = .ok (.halt (cmdField dw)))

/-- Words written out bit by bit from the table of 30_encoding.md R72, one of each family. -/
def Obligations.WrittenWordsDecode : Prop :=
  decode 0b00000#5 = .ok .nop ∧ decode 0b00001#5 = .ok .init ∧ decode 0b00010#5 = .ok .block ∧
  decode 0b00011#5 = .ok .rsvd3 ∧ decode 0b00110#5 = .ok (.sched 0b10#2) ∧
  decode 0b01001#5 = .ok (.ldreg 0b01#2) ∧ decode 0b01111#5 = .ok (.round 0b11#2) ∧
  decode 0b10000#5 = .ok (.feed 0b00#2) ∧ decode 0b11101#5 = .ok (.halt 0b01#2)

/-- 30_encoding.md sections 1 and 3 (R70, R72, R75), 44_accumulator.md section 2 (R141): a step whose phase and sampled
command form a word that decodes to `i` is `exec i` on the state with its ports driven and the host's move taken; the
reset event is a step of its own (the model's choice, log entry 5), and a host with nothing left to ask shows NOP and
leaves the block port (the model's choice, log entry 3). -/
def Obligations.StepRunsDecodedInstruction : Prop :=
  (∀ (s : State) (c : CmdCode) (b : Block) (es : List HostEvent) (i : Instr),
    s.pending = .drive c b :: es → decode (phaseCode s.phase ++ c) = .ok i →
      step s = exec i { s with pending := es, cmd := c, blockIn := b }) ∧
  (∀ (s : State) (i : Instr),
    s.pending = [] → decode (phaseCode s.phase ++ cmdNop) = .ok i → step s = exec i { s with cmd := cmdNop }) ∧
  (∀ (s : State) (es : List HostEvent),
    s.pending = .reset :: es → step s = .next (resetEvent { s with pending := es }))

/-- The model's placing of a word (log entry 17): the very next step runs exactly the operation placed, and nothing is
left on the host's list that was not there. -/
def Obligations.PlacedWordRunsNext : Prop :=
  ∀ (i : Instr) (s : State), ∃ p n,
    phaseCode p = phaseField (encode i) ∧
    (s.phase = p → n = s.t) ∧ (s.phase ≠ p → n = entryIndex p) ∧
    step (s.withFetchWord 8 (encode i).toNat) =
      exec i { s with phase := p, t := n, cmd := cmdField (encode i) }

/-! ### Primitives -/

/-- R90: addition modulo 2^32 with no carry kept, where "the grouping and the order do not matter" and `ADD32(x, 0) = x`;
its corner cases and worked example. -/
def Obligations.Add32WrapsModulo : Prop :=
  (∀ x y : Word, (add32 x y).toNat = (x.toNat + y.toNat) % 2 ^ 32) ∧
  (∀ x y : Word, add32 x y = add32 y x) ∧
  (∀ x y z : Word, add32 (add32 x y) z = add32 x (add32 y z)) ∧
  (∀ x : Word, add32 x 0 = x) ∧
  add32 0xffffffff 0x00000001 = 0x00000000 ∧ add32 0x80000000 0x80000000 = 0x00000000 ∧
  add32 0xffffffff 0xffffffff = 0xfffffffe ∧ add32 0x6a09e667 0xbb67ae85 = 0x257194ec

/-- R91: rotation by the bit index for every amount, the shift form for 0 < n < 32, and the rule's corner cases. -/
def Obligations.RotrMovesEveryBit : Prop :=
  (∀ (x : Word) (n i : Nat), i < 32 → (rotr x n).getLsbD i = x.getLsbD ((i + n) % 32)) ∧
  (∀ (x : Word) (n : Nat), 0 < n → n < 32 → rotr x n = (x >>> n ||| x <<< (32 - n))) ∧
  (∀ x : Word, rotr x 0 = x) ∧ (∀ (x : Word) (n : Nat), rotr x n = rotr x (n % 32)) ∧
  (∀ n : Nat, rotr 0x00000000 n = 0x00000000) ∧ (∀ n : Nat, rotr 0xffffffff n = 0xffffffff) ∧
  rotr 0x00000001 1 = 0x80000000 ∧ rotr 0x80000000 31 = 0x00000001 ∧ rotr 0x12345678 8 = 0x78123456

/-- R92: a logical shift, by value and by bit index, and the rule's corner cases. -/
def Obligations.ShrIsLogical : Prop :=
  (∀ (x : Word) (n : Nat), n < 32 → (shr x n).toNat = x.toNat / 2 ^ n) ∧
  (∀ (x : Word) (n i : Nat), i < 32 → (shr x n).getLsbD i = if i + n ≤ 31 then x.getLsbD (i + n) else false) ∧
  (∀ (x : Word) (n : Nat), 32 ≤ n → shr x n = 0) ∧
  shr 0x80000000 3 = 0x10000000 ∧ shr 0xffffffff 10 = 0x003fffff ∧ shr 0x12345678 3 = 0x02468acf

/-- R93, R94, R95: the bitwise primitives, bit by bit, with the rules' worked examples. -/
def Obligations.BitwisePrimitives : Prop :=
  (∀ (x y : Word) (i : Nat), i < 32 → (and32 x y).getLsbD i = (x.getLsbD i && y.getLsbD i)) ∧
  (∀ (x y : Word) (i : Nat), i < 32 → (xor32 x y).getLsbD i = (x.getLsbD i != y.getLsbD i)) ∧
  (∀ (x : Word) (i : Nat), i < 32 → (not32 x).getLsbD i = !x.getLsbD i) ∧
  (∀ x : Word, not32 x = 0xffffffff - x) ∧ (∀ x : Word, not32 x = xor32 x 0xffffffff) ∧
  and32 0x6a09e667 0xbb67ae85 = 0x2a01a605 ∧ xor32 0x6a09e667 0xbb67ae85 = 0xd16e48e2 ∧
  not32 0x510e527f = 0xaef1ad80

/-- 40_primitives.md section 4 (R96, R97): CH selects and MAJ takes the majority, bit by bit; their definitions and corner
cases. The other forms of each (three clauses: `or` for `xor` in CH, `g xor (e and (f xor g))`, `(a and b) or (c and (a
or b))`) are the spec's own derivation ("[derived: from rule R93, ...]"). -/
def Obligations.ChSelectsMajCounts : Prop :=
  (∀ (e f g : Word) (i : Nat), i < 32 →
    (ch e f g).getLsbD i = if e.getLsbD i then f.getLsbD i else g.getLsbD i) ∧
  (∀ e f g : Word, ch e f g = xor32 (and32 e f) (and32 (not32 e) g)) ∧
  (∀ e f g : Word, ch e f g = (and32 e f ||| and32 (not32 e) g)) ∧
  (∀ e f g : Word, ch e f g = xor32 g (and32 e (xor32 f g))) ∧
  (∀ f g : Word, ch 0xffffffff f g = f) ∧ (∀ f g : Word, ch 0x00000000 f g = g) ∧
  ch 0xffff0000 0x12345678 0x9abcdef0 = 0x1234def0 ∧ ch 0x510e527f 0x9b05688c 0x1f83d9ab = 0x1f85c98c ∧
  (∀ (a b c : Word) (i : Nat), i < 32 →
    ((maj a b c).getLsbD i = true ↔
      2 ≤ (a.getLsbD i).toNat + (b.getLsbD i).toNat + (c.getLsbD i).toNat)) ∧
  (∀ a b c : Word, maj a b c = xor32 (xor32 (and32 a b) (and32 a c)) (and32 b c)) ∧
  (∀ a b c : Word, maj a b c = maj b a c ∧ maj a b c = maj a c b) ∧
  (∀ a b c : Word, maj a b c = (and32 a b ||| and32 c (a ||| b))) ∧
  (∀ x y : Word, maj x x y = x) ∧
  maj 0xffffffff 0 0 = 0 ∧ maj 0xffffffff 0xffffffff 0 = 0xffffffff ∧
  maj 0x0000ffff 0x00ff00ff 0x0f0f0f0f = 0x000f0fff ∧ maj 0x6a09e667 0xbb67ae85 0x3c6ef372 = 0x3a6fe667

/-- R98 to R101: the four mixing functions bit by bit, with the amounts of R74 (the third term of the schedule
functions is a shift), and the rules' corner cases and worked examples. -/
def Obligations.MixingFunctionsBitwise : Prop :=
  (∀ (x : Word) (i : Nat), i < 32 →
    (bsig0 x).getLsbD i =
      (x.getLsbD ((i + 2) % 32) ^^ x.getLsbD ((i + 13) % 32) ^^ x.getLsbD ((i + 22) % 32)) ∧
    (bsig1 x).getLsbD i =
      (x.getLsbD ((i + 6) % 32) ^^ x.getLsbD ((i + 11) % 32) ^^ x.getLsbD ((i + 25) % 32)) ∧
    (ssig0 x).getLsbD i =
      (x.getLsbD ((i + 7) % 32) ^^ x.getLsbD ((i + 18) % 32) ^^ (decide (i + 3 < 32) && x.getLsbD (i + 3))) ∧
    (ssig1 x).getLsbD i =
      (x.getLsbD ((i + 17) % 32) ^^ x.getLsbD ((i + 19) % 32) ^^ (decide (i + 10 < 32) && x.getLsbD (i + 10)))) ∧
  bsig0 0 = 0 ∧ bsig0 0xffffffff = 0xffffffff ∧ bsig0 1 = 0x40080400 ∧ bsig0 0x80000000 = 0x20040200 ∧
  bsig0 0x6a09e667 = 0xce20b47e ∧
  bsig1 0 = 0 ∧ bsig1 0xffffffff = 0xffffffff ∧ bsig1 1 = 0x04200080 ∧ bsig1 0x80000000 = 0x02100040 ∧
  bsig1 0x510e527f = 0x3587272b ∧
  ssig0 0 = 0 ∧ ssig0 0xffffffff = 0x1fffffff ∧ ssig0 1 = 0x02004000 ∧ ssig0 0x80000000 = 0x11002000 ∧
  ssig0 0x61626364 = 0x5c3790f2 ∧
  ssig1 0 = 0 ∧ ssig1 0xffffffff = 0x003fffff ∧ ssig1 1 = 0x0000a000 ∧ ssig1 0x80000000 = 0x00205000 ∧
  ssig1 0x00000020 = 0x00140000 ∧ ssig1 0x61626364 = 0x7dc6e405

/-! ### Byte order, ports, ROMs -/

/-- R52: `be32` and `bytes_be32` by value and by bit field, and the round trip both ways. -/
def Obligations.BigEndianRoundTrip : Prop :=
  (∀ b0 b1 b2 b3 : Byte,
    (be32 b0 b1 b2 b3).toNat = b0.toNat * 2 ^ 24 + b1.toNat * 2 ^ 16 + b2.toNat * 2 ^ 8 + b3.toNat) ∧
  (∀ w : Word, bytesBe32 w =
    #v[w.extractLsb' 24 8, w.extractLsb' 16 8, w.extractLsb' 8 8, w.extractLsb' 0 8]) ∧
  (∀ b0 b1 b2 b3 : Byte, bytesBe32 (be32 b0 b1 b2 b3) = #v[b0, b1, b2, b3]) ∧
  (∀ w : Word, be32 (bytesBe32 w)[0] (bytesBe32 w)[1] (bytesBe32 w)[2] (bytesBe32 w)[3] = w) ∧
  be32 0x61 0x62 0x63 0x64 = 0x61626364 ∧ bytesBe32 0x6a09e667 = #v[0x6a, 0x09, 0xe6, 0x67]

/-- R53: the block port as a 512-bit vector: byte `k` is a slice of it, and so is word `j`, with no byte swapping. -/
def Obligations.BlockPortSlices : Prop :=
  ∀ b : Block,
    (∀ k : Fin 64, (blockVector b).extractLsb' (504 - 8 * k.val) 8 = b[k]) ∧
    (∀ j : Fin 16, blockWord b j = be32 b[4 * j.val] b[4 * j.val + 1] b[4 * j.val + 2] b[4 * j.val + 3]) ∧
    (∀ j : Fin 16, (blockVector b).extractLsb' (480 - 32 * j.val) 32 = blockWord b j)

/-- R148 and R56: digest byte 4j + k is byte k of `HS[j]`; the digest port as a 256-bit vector is the bytes, and the
eight words, side by side. -/
def Obligations.DigestPortRendersHs : Prop :=
  ∀ s : State,
    (∀ j : Fin 8,
      (digestOut s)[4 * j.val] = s.hs[j].extractLsb' 24 8 ∧
      (digestOut s)[4 * j.val + 1] = s.hs[j].extractLsb' 16 8 ∧
      (digestOut s)[4 * j.val + 2] = s.hs[j].extractLsb' 8 8 ∧
      (digestOut s)[4 * j.val + 3] = s.hs[j].extractLsb' 0 8) ∧
    (∀ k : Fin 32, (digestVector (digestOut s)).extractLsb' (248 - 8 * k.val) 8 = (digestOut s)[k]) ∧
    (∀ j : Fin 8, (digestVector (digestOut s)).extractLsb' (224 - 32 * j.val) 32 = s.hs[j])

/-- 20_memory.md section 1 (the table of R51): what `MemRead` reads of each byte space. The last clause, that an address
outside a space reads nothing, is the model's reading (log entry 8, DEDUCED): R51 says that such an index cannot be
formed. -/
def Obligations.SpacesReadBigEndian : Prop :=
  ∀ s : State,
    (∀ j : Fin 16, ∃ b0 b1 b2 b3,
      memRead .blk s (4 * j.val) 4 = some [b0, b1, b2, b3] ∧ be32 b0 b1 b2 b3 = blockWord s.blockIn j) ∧
    (∀ i : Fin 64, memRead .krom s (4 * i.val) 4 = some (bytesBe32 romK[i]).toList) ∧
    (∀ j : Fin 8, memRead .ivrom s (4 * j.val) 4 = some (bytesBe32 romIV[j]).toList) ∧
    (∀ j : Fin 8, memRead .dig s (4 * j.val) 4 = some (bytesBe32 s.hs[j]).toList) ∧
    (∀ a : Nat,
      ((readByte .blk s a).isSome ↔ a < 64) ∧ ((readByte .krom s a).isSome ↔ a < 256) ∧
      ((readByte .ivrom s a).isSome ↔ a < 32) ∧ ((readByte .dig s a).isSome ↔ a < 32))

/-- 10_state.md section 3 (R26): the eight printed words; and that each is `floor(sqrt(p * 2^64)) mod 2^32` of its prime,
which is the spec's own derivation ("[derived: from the description in §4.4 by computation]"). -/
def Obligations.InitialStateRom : Prop :=
  romIV = #v[0x6a09e667, 0xbb67ae85, 0x3c6ef372, 0xa54ff53a, 0x510e527f, 0x9b05688c, 0x1f83d9ab, 0x5be0cd19] ∧
  ∀ j : Fin 8, ∃ r : Nat,
    r ^ 2 ≤ [2, 3, 5, 7, 11, 13, 17, 19].getD j.val 0 * 2 ^ 64 ∧
    [2, 3, 5, 7, 11, 13, 17, 19].getD j.val 0 * 2 ^ 64 < (r + 1) ^ 2 ∧
    romIV[j].toNat = r % 2 ^ 32

/-- 10_state.md section 3 (the formula of R25, whose reading of "fractional part" the spec marks as from general
knowledge, G1; log entry 11): each round constant is `floor(cbrt(p * 2^96)) mod 2^32` of its prime. -/
def Obligations.RoundConstantsAreCubeRoots : Prop :=
  ∀ i : Fin 64, ∃ p r : Nat,
    Nat.Prime p ∧ ((List.range p).filter fun q => decide (Nat.Prime q)).length = i.val ∧
    r ^ 3 ≤ p * 2 ^ 96 ∧ p * 2 ^ 96 < (r + 1) ^ 3 ∧ romK[i].toNat = r % 2 ^ 32

/-- R33: the outputs as functions of the state. -/
def Obligations.OutputsOfState : Prop :=
  ∀ s : State,
    (ready s = true ↔ s.phase = .idle) ∧ digestValid s = s.dv ∧ digestOut s = render s.hs ∧
    (faultOut s = true ↔ s.phase = .fault) ∧ faultCodeOut s = s.fcode ∧
    (readDigest s = if s.dv then some (render s.hs) else none)

/-! ### The operations: what each completes to, and its frame -/

/-- R142: NOP changes nothing, in any number. -/
def Obligations.NopChangesNothing : Prop :=
  (∀ s : State, exec .nop s = .next s) ∧
  (∀ (s : State) (n : Nat), s.phase = .idle →
    ∃ u, nopSteps n s = .next u ∧ elements u = elements s ∧ digestOut u = digestOut s)

/-- R143: INIT, its frame, that two in a row equal one, and that only phase IDLE accepts it. -/
def Obligations.InitBeginsMessage : Prop :=
  (∀ s : State, ∃ u, exec .init s = .next u ∧
    (∀ j : Fin 8, u.hs[j] = romIV[j]) ∧ u.isOpen = true ∧ u.dv = false ∧ u.phase = .idle ∧ u.t = 0 ∧
    u = { s with hs := u.hs, isOpen := u.isOpen, dv := u.dv, phase := u.phase, t := u.t } ∧
    exec .init u = .next u) ∧
  (∀ s : State, decode (decodeWord s) = .ok .init ↔ s.phase = .idle ∧ s.cmd = 0b01#2)

/-- R121, and 44_accumulator.md section 3 for the accepting step of BLOCK: with `open` = 1 the sixteen words of the
block are loaded, `W[16..63]` keep what they held, `dv` is cleared, the position is (SCHED, 16), nothing else changes. -/
def Obligations.BlockAcceptedLoadsWords : Prop :=
  ∀ s : State, s.isOpen = true → ∃ u, exec .block s = .next u ∧
    (∀ j : Fin 16, u.w[j.val].toNat =
      s.blockIn[4 * j.val].toNat * 2 ^ 24 + s.blockIn[4 * j.val + 1].toNat * 2 ^ 16 +
      s.blockIn[4 * j.val + 2].toNat * 2 ^ 8 + s.blockIn[4 * j.val + 3].toNat) ∧
    (∀ i : Fin 64, 16 ≤ i.val → u.w[i] = s.w[i]) ∧
    u.dv = false ∧ u.phase = .sched ∧ u.t = 16 ∧
    u = { s with w := u.w, dv := u.dv, phase := u.phase, t := u.t }

/-- R163, R164, R166: BLOCK with `open` = 0, and the reserved command whatever `open` is, enter FAULT with codes 4 and
5; fault entry clears both flags and writes nothing else, so `W` is not loaded; the outputs show it. The last two
clauses say the same of a step of the core in phase IDLE. -/
def Obligations.FaultEntryIsPrecise : Prop :=
  ∀ s : State,
    (s.isOpen = false → ∃ u, exec .block s = .next u ∧
      u = { s with fcode := 4, isOpen := false, dv := false, phase := .fault, t := 0 } ∧
      faultOut u = true ∧ ready u = false ∧ digestValid u = false ∧ faultCodeOut u = 4) ∧
    (∃ u, exec .rsvd3 s = .next u ∧
      u = { s with fcode := 5, isOpen := false, dv := false, phase := .fault, t := 0 } ∧
      faultOut u = true ∧ ready u = false ∧ digestValid u = false ∧ faultCodeOut u = 5) ∧
    (accepts cmdBlock s → s.isOpen = false → ∃ u, step s = .next u ∧
      elements u = { elements s with fcode := 4, isOpen := false, dv := false, phase := .fault, t := 0 }) ∧
    (accepts cmdRsvd3 s → ∃ u, step s = .next u ∧
      elements u = { elements s with fcode := 5, isOpen := false, dv := false, phase := .fault, t := 0 })

/-- R122: SCHED writes `W[t]` from four earlier entries, moves the position on, and changes nothing else. -/
def Obligations.SchedWritesOneEntry : Prop :=
  ∀ (s : State) (cc : CmdCode), 16 ≤ s.t.toNat → ∃ u, exec (.sched cc) s = .next u ∧
    (∀ i : Fin 64, i.val = s.t.toNat →
      u.w[i] = s.w[i.val - 16] + ssig0 s.w[i.val - 15] + s.w[i.val - 7] + ssig1 s.w[i.val - 2]) ∧
    (∀ i : Fin 64, i.val ≠ s.t.toNat → u.w[i] = s.w[i]) ∧
    (s.t = 63 → u.phase = .ldreg ∧ u.t = 0) ∧
    (s.t ≠ 63 → u.phase = .sched ∧ u.t.toNat = s.t.toNat + 1) ∧
    u = { s with w := u.w, phase := u.phase, t := u.t }

/-- The model's choice (log entry 6), for states no run reaches (93_implementation_defined.md U18): with `t` < 16 the
index `t - 16` does not exist and SCHED stops by name. -/
def Obligations.SchedBelowSixteenStops : Prop :=
  ∀ (s : State) (cc : CmdCode), s.t.toNat < 16 → exec (.sched cc) s = .fault (.scheduleIndex s.t)

/-- R131: LDREG copies `HS` into the working registers and changes nothing else. -/
def Obligations.LdregCopiesHs : Prop :=
  ∀ (s : State) (cc : CmdCode), ∃ u, exec (.ldreg cc) s = .next u ∧
    (∀ j : Fin 8, u.wr[j] = s.hs[j]) ∧ u.phase = .round ∧ u.t = 0 ∧
    u = { s with wr := u.wr, phase := u.phase, t := u.t }

/-- R132: ROUND, all eight registers from their old values, and its frame. -/
def Obligations.RoundMixesRegisters : Prop :=
  ∀ (s : State) (cc : CmdCode), ∃ u, exec (.round cc) s = .next u ∧
    (∀ i : Fin 64, i.val = s.t.toNat →
      let t1 := s.wr[7] + bsig1 s.wr[4] + ch s.wr[4] s.wr[5] s.wr[6] + romK[i] + s.w[i]
      let t2 := bsig0 s.wr[0] + maj s.wr[0] s.wr[1] s.wr[2]
      u.wr[0] = t1 + t2 ∧ u.wr[1] = s.wr[0] ∧ u.wr[2] = s.wr[1] ∧ u.wr[3] = s.wr[2] ∧
      u.wr[4] = s.wr[3] + t1 ∧ u.wr[5] = s.wr[4] ∧ u.wr[6] = s.wr[5] ∧ u.wr[7] = s.wr[6]) ∧
    (s.t = 63 → u.phase = .feed ∧ u.t = 0) ∧
    (s.t ≠ 63 → u.phase = .round ∧ u.t.toNat = s.t.toNat + 1) ∧
    u = { s with wr := u.wr, phase := u.phase, t := u.t }

/-- R147: FEED adds the working registers into `HS`, word by word, sets `dv`, returns to IDLE, changes nothing else. -/
def Obligations.FeedAddsForward : Prop :=
  ∀ (s : State) (cc : CmdCode), ∃ u, exec (.feed cc) s = .next u ∧
    (∀ j : Fin 8, u.hs[j].toNat = (s.hs[j].toNat + s.wr[j].toNat) % 2 ^ 32) ∧
    u.dv = true ∧ u.phase = .idle ∧ u.t = 0 ∧
    u = { s with hs := u.hs, dv := u.dv, phase := u.phase, t := u.t }

/-- R167: a step in FAULT changes nothing, whatever is on the ports: HALT changes no field, and a step of the core from
FAULT leaves every element of the state. -/
def Obligations.HaltHoldsFault : Prop :=
  (∀ (s : State) (cc : CmdCode), exec (.halt cc) s = .next s) ∧
  (∀ s : State, s.phase = .fault → resetNext s = false → ∃ u, step s = .next u ∧ elements u = elements s)

/-- 70_reset_and_hazards.md section 1 (R190): the reset event from any state, whatever its phase: position (IDLE, 0),
flags and code 0, the outputs that follow, the host's other moves kept; `State.reset` is such a state; and a BLOCK
then faults. What `HS`, `W` and `wr` hold afterwards is the model's free value (log entry 1) and is not stated. -/
def Obligations.ResetEventLeaves : Prop :=
  (∀ (s : State) (es : List HostEvent), s.pending = .reset :: es → ∃ u, step s = .next u ∧
    u.phase = .idle ∧ u.t = 0 ∧ u.isOpen = false ∧ u.dv = false ∧ u.fcode = 0 ∧ u.pending = es ∧
    ready u = true ∧ digestValid u = false ∧ faultOut u = false ∧ faultCodeOut u = 0 ∧
    (∀ b, ∃ v, stepWith cmdBlock b u = .next v ∧ v.phase = .fault ∧ v.fcode = 4)) ∧
  (State.reset.phase = .idle ∧ State.reset.t = 0 ∧ State.reset.isOpen = false ∧ State.reset.dv = false ∧
    State.reset.fcode = 0)

/-! ### The whole machine -/

/-- R29: every write of the sequencer position, in every state that keeps the invariants of R37 (the table speaks of
the positions those allow). -/
def Obligations.PositionTable : Prop :=
  ∀ s u : State, Inv s → step s = .next u →
    (resetNext s = true → u.phase = .idle ∧ u.t = 0) ∧
    (accepts cmdNop s → u.phase = .idle ∧ u.t = 0) ∧
    (accepts cmdInit s → u.phase = .idle ∧ u.t = 0) ∧
    (accepts cmdBlock s → s.isOpen = true → u.phase = .sched ∧ u.t = 16) ∧
    (accepts cmdBlock s → s.isOpen = false → u.phase = .fault ∧ u.t = 0) ∧
    (accepts cmdRsvd3 s → u.phase = .fault ∧ u.t = 0) ∧
    (resetNext s = false →
      (s.phase = .sched → s.t.toNat ≤ 62 → u.phase = .sched ∧ u.t.toNat = s.t.toNat + 1) ∧
      (s.phase = .sched → s.t = 63 → u.phase = .ldreg ∧ u.t = 0) ∧
      (s.phase = .ldreg → u.phase = .round ∧ u.t = 0) ∧
      (s.phase = .round → s.t.toNat ≤ 62 → u.phase = .round ∧ u.t.toNat = s.t.toNat + 1) ∧
      (s.phase = .round → s.t = 63 → u.phase = .feed ∧ u.t = 0) ∧
      (s.phase = .feed → u.phase = .idle ∧ u.t = 0) ∧
      (s.phase = .fault → u.phase = .fault ∧ u.t = 0))

/-- R30: the table of the two flags, both ways: each writer writes what the table says, and no other step changes a
flag, in any state. -/
def Obligations.FlagTable : Prop :=
  ∀ s u : State, step s = .next u →
    (accepts cmdInit s → u.isOpen = true ∧ u.dv = false) ∧
    (resetNext s = true → u.isOpen = false ∧ u.dv = false) ∧
    (faultsNext s → u.isOpen = false ∧ u.dv = false) ∧
    (accepts cmdBlock s → u.dv = false) ∧
    (resetNext s = false → s.phase = .feed → u.dv = true) ∧
    (u.isOpen ≠ s.isOpen → accepts cmdInit s ∨ resetNext s = true ∨ faultsNext s) ∧
    (u.dv ≠ s.dv →
      accepts cmdInit s ∨ resetNext s = true ∨ faultsNext s ∨ accepts cmdBlock s ∨
      (resetNext s = false ∧ s.phase = .feed))

/-- R31: `fcode` is written only by fault entry and by reset, with the codes of R161, and shown on `fault_code`. -/
def Obligations.FaultCodeWriters : Prop :=
  ∀ s u : State, step s = .next u →
    (resetNext s = true → u.fcode = 0) ∧
    (accepts cmdBlock s → s.isOpen = false → u.fcode = 4) ∧
    (accepts cmdRsvd3 s → u.fcode = 5) ∧
    (u.fcode ≠ s.fcode → resetNext s = true ∨ faultsNext s) ∧
    faultCodeOut u = u.fcode

/-- 10_state.md section 1 (the "who writes" column of R20), sections 2 and 3 (R22, R23, R24): each register file
changes only in the steps the table names (or at the reset event), and the schedule only where they write it. -/
def Obligations.RegisterFileWriters : Prop :=
  ∀ s u : State, step s = .next u → resetNext s = false →
    (u.wr ≠ s.wr → s.phase = .ldreg ∨ s.phase = .round) ∧
    (u.hs ≠ s.hs → accepts cmdInit s ∨ s.phase = .feed) ∧
    (∀ i : Fin 64, u.w[i] ≠ s.w[i] →
      (accepts cmdBlock s ∧ s.isOpen = true ∧ i.val < 16) ∨ (s.phase = .sched ∧ i.val = s.t.toNat))

/-- 60_exceptions.md sections 1 and 3 (R161, R169): FAULT is entered by the two conditions of R163 and R164 only, with
their codes, and the two exclude each other; so a host that keeps R200 never causes a fault. -/
def Obligations.FaultsOnlyByProtocol : Prop :=
  ∀ s u : State, step s = .next u → s.phase ≠ .fault →
    (u.phase = .fault →
      (accepts cmdBlock s ∧ s.isOpen = false ∧ u.fcode = 4 ∧ ¬ accepts cmdRsvd3 s) ∨
      (accepts cmdRsvd3 s ∧ u.fcode = 5 ∧ ¬ accepts cmdBlock s)) ∧
    (disciplined s → u.phase ≠ .fault)

/-- R168: FAULT is left only by the reset event; until then, for any number of steps, the first code stays and the run
is a failed one, never complete. -/
def Obligations.OnlyResetLeavesFault : Prop :=
  (∀ (s : State) (n : Nat), s.phase = .fault → noReset n s →
    ∃ u, steps n s = .next u ∧ elements u = elements s ∧ failed u ∧ ¬ complete u) ∧
  (∀ s u : State, s.phase = .fault → step s = .next u → u.phase ≠ .fault → resetNext s = true) ∧
  (∀ (s : State) (es : List HostEvent), s.phase = .fault → s.pending = .reset :: es →
    ∃ u, step s = .next u ∧ u.phase = .idle ∧ u.isOpen = false)

/-- R195: while `ready` = 0 the values on `cmd` and `block_in` have no effect of any kind; and in a step that does not
accept BLOCK the block port has none either (93_implementation_defined.md U17). -/
def Obligations.PortsIgnoredWhileBusy : Prop :=
  ∀ (s u : State) (c d : CmdCode) (b e : Block),
    (ready s = false ∨ (c = d ∧ c ≠ cmdBlock)) → stepWith c b s = .next u →
      ∃ v, stepWith d e s = .next v ∧ elements v = elements u

/-- 20_memory.md section 5 (R58, third rule a host can rely on): while `digest_valid` stays 1, `digest_out` is
stable. -/
def Obligations.DigestStableWhileValid : Prop :=
  ∀ s u : State, Inv s → s.dv = true → step s = .next u → u.dv = true → digestOut u = digestOut s ∧ u.phase = .idle

/-- 10_state.md section 10 (the spec's own derivation, "[derived: from rule R29, rule R36, ...]"): invariants 1 to 5,
and the codes of R161, are kept by every step, and no step from them stops. -/
def Obligations.StepKeepsInvariant : Prop :=
  ∀ s : State, Inv s → ∃ u, step s = .next u ∧ Inv u

/-- 10_state.md section 10: the state after reset keeps the invariants. -/
def Obligations.ResetMeetsInvariant : Prop := Inv State.reset

/-- 10_state.md section 10, invariants 6 to 8 and "So no step ever reads an element that holds no value" (the spec's
own derivation): two states that differ only in elements that hold no value step alike and show the same outputs, so
the free values after reset (log entry 1) reach no output that means anything. -/
def Obligations.UnstatedValuesStayHidden : Prop :=
  ∀ s u : State, Inv s → SameDefined s u →
    (ready s = ready u ∧ digestValid s = digestValid u ∧ faultOut s = faultOut u ∧
      faultCodeOut s = faultCodeOut u ∧ readDigest s = readDigest u) ∧
    ∃ s' u', step s = .next s' ∧ step u = .next u' ∧ SameDefined s' u'

/-! ### The function view and its agreement with the steps -/

/-- R120: `expand` of 64 bytes copies the sixteen big-endian words and derives the rest in order; of any other length it
fails. -/
def Obligations.ExpandDerivesSchedule : Prop :=
  (∀ bytes : List Byte, bytes.length ≠ 64 → expand bytes = .error .precondBlockLen) ∧
  (∀ (bytes : List Byte), bytes.length = 64 → ∃ w : Schedule, expand bytes = .ok w ∧
    (∀ j : Fin 16, w[j.val] = be32 (bytes.getD (4 * j.val) 0) (bytes.getD (4 * j.val + 1) 0)
      (bytes.getD (4 * j.val + 2) 0) (bytes.getD (4 * j.val + 3) 0)) ∧
    (∀ i : Fin 64, 16 ≤ i.val →
      w[i] = w[i.val - 16] + ssig0 w[i.val - 15] + w[i.val - 7] + ssig1 w[i.val - 2]))

/-- R130: `compress` of 64 words is the last of 65 register files, each made from the one before by the round's
equations; of any other number of words it fails. -/
def Obligations.CompressRunsRounds : Prop :=
  (∀ (ws : List Word) (r : State8), ws.length ≠ 64 → compress ws r = .error .precondSchedLen) ∧
  (∀ (ws : List Word) (r : State8), ws.length = 64 → ∃ f : Nat → State8,
    f 0 = r ∧ compress ws r = .ok (f 64) ∧
    ∀ i : Fin 64,
      let t1 := (f i)[7] + bsig1 (f i)[4] + ch (f i)[4] (f i)[5] (f i)[6] + romK[i] + ws.getD i 0
      let t2 := bsig0 (f i)[0] + maj (f i)[0] (f i)[1] (f i)[2]
      f (i + 1) = #v[t1 + t2, (f i)[0], (f i)[1], (f i)[2], (f i)[3] + t1, (f i)[4], (f i)[5], (f i)[6]])

/-- R162: the two precondition violations, exactly when the length is wrong, with codes 1 and 2; nothing is padded or
cut. -/
def Obligations.PreconditionsChecked : Prop :=
  (∀ bytes : List Byte, expand bytes = .error .precondBlockLen ↔ bytes.length ≠ 64) ∧
  (∀ (ws : List Word) (r : State8), compress ws r = .error .precondSchedLen ↔ ws.length ≠ 64) ∧
  faultCode .precondBlockLen = 1 ∧ faultCode .precondSchedLen = 2

/-- 42_scheduler.md section 3 (R123, the spec's own derivation): after the accepting step and 48 SCHED steps the
position is (LDREG, 0) and `W` is `expand` of the block, whatever the host does on the ports. The count is this spec's
step decomposition (log entry 18). -/
def Obligations.SchedStepsComputeExpand : Prop :=
  ∀ (s : State) (b : Block) (es : List HostEvent),
    s.phase = .idle → s.isOpen = true → s.pending = .drive cmdBlock b :: es → (∀ e ∈ es.take 48, e ≠ .reset) →
    ∃ u, steps 49 s = .next u ∧ u.phase = .ldreg ∧ u.t = 0 ∧ expand b.toList = .ok u.w ∧ u.hs = s.hs

/-- 43_compressor.md section 3 (R133, the spec's own derivation): from (LDREG, 0), after LDREG and 64 ROUND steps the
position is (FEED, 0), `wr` is `compress` of the schedule and `HS`, and `HS` and `W` are as they were. The count is this
spec's step decomposition (log entry 18). -/
def Obligations.RoundStepsComputeCompress : Prop :=
  ∀ s : State, s.phase = .ldreg → noReset 65 s →
    ∃ u, steps 65 s = .next u ∧ u.phase = .feed ∧ u.t = 0 ∧ compress s.w.toList s.hs = .ok u.wr ∧
      u.hs = s.hs ∧ u.w = s.w

/-- 44_accumulator.md section 6 (R150, the spec's own derivation): the BLOCK operation as a whole, whatever the host
puts on the ports during its other 114 steps. The counts are this spec's step decomposition, a timing parameter (log
entry 18). -/
def Obligations.BlockOperationAbsorbs : Prop :=
  ∀ (s : State) (b : Block) (es : List HostEvent),
    s.phase = .idle → s.t = 0 → s.isOpen = true → s.fcode = 0 →
    s.pending = .drive cmdBlock b :: es → (∀ e ∈ es.take 114, e ≠ .reset) →
    (∃ u out w, steps Config.stepsPerBlock s = .next u ∧ expand b.toList = .ok w ∧
      compress w.toList s.hs = .ok out ∧ (∀ j : Fin 8, u.hs[j] = s.hs[j] + out[j]) ∧
      u.phase = .idle ∧ u.t = 0 ∧ u.isOpen = true ∧ u.dv = true ∧ u.fcode = 0 ∧ u.pending = es.drop 114) ∧
    (∀ k, 1 ≤ k → k < Config.stepsPerBlock → ∃ v, steps k s = .next v ∧
      ready v = false ∧ digestValid v = false ∧ faultOut v = false ∧ v.hs = s.hs)

/-- 70_reset_and_hazards.md section 5 (R201, the liveness fact a model may rely on): a block in progress reaches
`ready` = 1 after a finite number of steps, without any help from the host. The bound 114 is this spec's step
decomposition, a timing parameter (log entry 18). -/
def Obligations.BlockReachesReady : Prop :=
  ∀ s : State, Inv s → busy s → noReset 114 s →
    ∃ n u, n ≤ 114 ∧ steps n s = .next u ∧ ready u = true ∧ digestValid u = true ∧
      ∀ k < n, ∃ v, steps k s = .next v ∧ ready v = false

/-- 30_encoding.md section 6 (R79): WAIT ends with `ready` = 1 or `fault` = 1, and takes no step if one of them is 1
already. -/
def Obligations.WaitEndsReadyOrFault : Prop :=
  ∀ s : State, Inv s →
    (∃ u, waitReady s = .next u ∧ (ready u = true ∨ faultOut u = true) ∧ Inv u) ∧
    (ready s = true ∨ faultOut s = true → waitReady s = .next s)

/-- 44_accumulator.md section 6 (R151, the spec's own derivation): the trace HASH m, from any state with `phase` =
IDLE that keeps the invariants, ends with a valid digest whose rendering is `hash m`. -/
def Obligations.HashTraceComputesHash : Prop :=
  ∀ (s : State) (m : List Byte), Inv s → s.phase = .idle → m.length < 2 ^ 61 →
    ∃ is u d, hashItems m = .ok is ∧ runTrace is s = .next u ∧ complete u ∧ readDigest u = some d ∧
      hashMessage m = .ok (hex d)

/-- 70_reset_and_hazards.md section 5 (R201) and 44_accumulator.md section 6: a host that never idles has the digest of
a message of n blocks after 1 + 115 n steps. The counts are this spec's step decomposition, a timing parameter (log
entry 18). -/
def Obligations.MessageTakesItsSteps : Prop :=
  ∀ (s : State) (m p : List Byte) (bs : List Block), Inv s → s.phase = .idle →
    pad m = .ok p → (windows p).mapM listBlock = .ok bs → s.pending = messageEvents bs →
    ∃ u d, steps (1 + Config.stepsPerBlock * bs.length) s = .next u ∧ complete u ∧ u.pending = [] ∧
      readDigest u = some d ∧ hashMessage m = .ok (hex d) ∧ bs.length = (m.length + 8) / 64 + 1

/-- 70_reset_and_hazards.md section 2 (R192) with 44_accumulator.md sections 6 and 8 (R151, R155): from any state at
all, a host that resets once and then hashes messages one after another on the one core reads for each the digest that
message has alone, as a program of steps 1 and 2 and as the sequence with its step 3. Step 2.1 (60_exceptions.md R165): at
the first message of 2^61 bytes or more it reports the error and stops, with every message before it hashed, and however
long it is followed it presents no command for that message or a later one, so that the core stays where it stood. Step
3: with `fault` = 1 it goes to 1, with the message begun to be begun again. How "stop" and "go to 1" are read is log entry
23. The number of moves is this spec's step decomposition (log entry 18), the reset event counted (log entry 5). -/
def Obligations.SessionReadsEveryDigest : Prop :=
  (∀ (s : State) (ms : List (List Byte)), (∀ m ∈ ms, m.length < 2 ^ 61) →
    (∃ u ds, runProgram (hostSession ms) s = .ok (u, ds) ∧ faultOut u = false ∧
      ms.mapM hashMessage = .ok (ds.map hex)) ∧
    (∃ x, Session.serve (sessionMoves ms) ⟨HostWork.start ms, s⟩ = .next x ∧ ready x.core = true ∧
      faultOut x.core = false ∧ x.reported = none ∧ ms.mapM hashMessage = .ok (x.results.map hex))) ∧
  (∀ (s : State) (ms post : List (List Byte)) (m : List Byte), (∀ n ∈ ms, n.length < 2 ^ 61) → 2 ^ 61 ≤ m.length →
    runProgram (hostSession (ms ++ m :: post)) s = .error (.cause .unsupportedInput) ∧
    ∃ x, Session.serve (sessionMoves ms) ⟨HostWork.start (ms ++ m :: post), s⟩ = .next x ∧
      ready x.core = true ∧ faultOut x.core = false ∧ x.reported = some .unsupportedInput ∧
      ms.mapM hashMessage = .ok (x.results.map hex) ∧ (ms = [] → x.core.isOpen = false) ∧
      ∀ k, ∃ y, x.serve k = .next y ∧ elements y.core = elements x.core ∧ y.results = x.results ∧
        y.reported = some .unsupportedInput) ∧
  (∀ (w : HostWork) (s : State), s.phase = .fault → ∃ x, Session.serve 1 ⟨w, s⟩ = .next x ∧
    x.core.phase = .idle ∧ x.core.fcode = 0 ∧ x.host.resetDue = false ∧ x.host.rest = [] ∧
    x.host.digests = w.digests ∧ x.host.later = w.begun.toList ++ w.later)

/-- 70_reset_and_hazards.md section 4 (R200) with R196 and R198: a host that keeps the table, whatever it chooses within
it and however often it resets, never meets a fault, from any state with the invariants that is not in FAULT or once it
has applied reset; the digests it has read are those of its messages before the first of 2^61 bytes or more, in order;
and it reports an error only for such a message, when all before it are hashed (60_exceptions.md R165). The last clause
says that the core never shows `fault` = 1 under the premise decision D8 names, on the raw moves. How the host goes on
after a reset or an error, and that a held command stays, is log entry 23. -/
def Obligations.LawfulHostNeverFaults : Prop :=
  (∀ (ms : List (List Byte)) (acts : List HostAct) (s : State), Inv s →
    ∃ x, Session.run acts ⟨HostWork.start ms, s⟩ = .next x ∧
      (s.phase ≠ .fault ∨ HostAct.reset ∈ acts → faultOut x.core = false) ∧
      ∃ all, (ms.takeWhile fun m => decide (m.length < 2 ^ 61)).mapM hashMessage = .ok all ∧
        x.results.map hex = all.take x.results.length ∧
        ∀ c, x.reported = some c →
          c = .unsupportedInput ∧ (∃ m ∈ ms, 2 ^ 61 ≤ m.length) ∧ x.results.length = all.length) ∧
  (∀ s : State, Inv s → s.phase ≠ .fault → keepsDuties s →
    ∀ n ≤ s.pending.length, ∃ u, steps n s = .next u ∧ faultOut u = false)

/-! ### The host's duties -/

/-- R110 and R112: the padded message, and the refusal of 2^61 bytes or more before any command. -/
def Obligations.PadAppends : Prop :=
  (∀ m : List Byte, m.length < 2 ^ 61 → ∃ z : Nat, z < 64 ∧ (m.length + 1 + z) % 64 = 56 ∧
    pad m = .ok (m ++ [0x80#8] ++ List.replicate z 0x00#8 ++ len64Be (8 * m.length))) ∧
  (∀ l : Nat, 8 * l < 2 ^ 64 ↔ l < 2 ^ 61) ∧
  (∀ m : List Byte, 2 ^ 61 ≤ m.length →
    pad m = .error .unsupportedInput ∧ hashItems m = .error .unsupportedInput ∧
    hashMessage m = .error .unsupportedInput)

/-- 41_padder_host.md section 1 (R113): the properties of `pad`, with the cases it tabulates. The upper bound and the
number of blocks (item 3) and where each byte of the padding lies (item 5) are the spec's own derivation ("[derived: from
rule R110]"). -/
def Obligations.PadProperties : Prop :=
  (∀ m : List Byte, m.length < 2 ^ 61 → ∃ p, pad m = .ok p ∧
    p.length % 64 = 0 ∧ m.length + 9 ≤ p.length ∧ p.length ≤ m.length + 72 ∧
    p.length / 64 = (m.length + 8) / 64 + 1 ∧ 0 < p.length ∧
    p.take m.length = m ∧ p[m.length]? = some 0x80#8 ∧
    (∀ k, m.length + 1 ≤ k → k + 8 < p.length → p[k]? = some 0x00#8) ∧
    p.drop (p.length - 8) = len64Be (8 * m.length)) ∧
  (∀ c ∈ [(0, 55, 64), (4, 51, 64), (55, 0, 64), (56, 63, 128), (63, 56, 128), (64, 55, 128), (119, 0, 128),
      (120, 63, 192)],
    ∀ m p : List Byte, m.length = c.1 → pad m = .ok p → zeroCount m.length = c.2.1 ∧ p.length = c.2.2)

/-- R111: `len64_be` writes a 64-bit number most significant byte first, and the bit length lands in the last block as
`W[14]` (high half) and `W[15]` (low half). -/
def Obligations.LengthFieldBigEndian : Prop :=
  (∀ n : Nat, n < 2 ^ 64 → (len64Be n).length = 8 ∧ bytesValue (len64Be n) = n) ∧
  len64Be 32 = [0x00, 0x00, 0x00, 0x00, 0x00, 0x00, 0x00, 0x20] ∧
  (∀ (m p l : List Byte) (w : Schedule), pad m = .ok p → (windows p).getLast? = some l → expand l = .ok w →
    w[14].toNat = 8 * m.length / 2 ^ 32 ∧ w[15].toNat = 8 * m.length % 2 ^ 32)

/-- R114: the windows of a padded message: that many, each of 64 bytes, in order and with nothing left over; the host
presents them after one INIT, each with one BLOCK, in that order. -/
def Obligations.WindowsCoverPadding : Prop :=
  ∀ m p : List Byte, pad m = .ok p →
    (windows p).length = p.length / 64 ∧ (∀ l ∈ windows p, l.length = 64) ∧ (windows p).flatten = p ∧
    (∀ q k : Nat, q < p.length / 64 → k < 64 → ((windows p)[q]?.bind fun l => l[k]?) = p[64 * q + k]?) ∧
    (∃ bs : List Block, bs.map (fun b => b.toList) = windows p ∧
      hashItems m = .ok (.init :: bs.map .block))

/-- 41_padder_host.md section 3 (R115; that the high nibble comes first is from general knowledge, G2, log entry 12):
64 lowercase digits, two for each byte; and different digests are written differently. -/
def Obligations.HexWritesEveryNibble : Prop :=
  (∀ d : Digest, (hex d).length = 64 ∧
    ∀ k : Fin 32, (hex d)[2 * k.val]? = some (hexDigit (d[k].extractLsb' 4 4)) ∧
      (hex d)[2 * k.val + 1]? = some (hexDigit (d[k].extractLsb' 0 4))) ∧
  (∀ (d : Digest) (c : Char), c ∈ hex d → 
    c ∈ ['0', '1', '2', '3', '4', '5', '6', '7', '8', '9', 'a', 'b', 'c', 'd', 'e', 'f']) ∧
  (∀ d e : Digest, hex d = hex e → d = e)

/-- 44_accumulator.md section 1 ("There is no error path once padding succeeds; the function is total over all
supported inputs", R140): `hash` of a supported message is 64 characters, and is the chain of block absorptions. -/
def Obligations.HashTotalOnSupported : Prop :=
  ∀ m : List Byte, m.length < 2 ^ 61 → ∃ (txt : List Char) (bs : List Block) (p : List Byte),
    hashMessage m = .ok txt ∧ txt.length = 64 ∧ pad m = .ok p ∧ (windows p) = bs.map (fun b => b.toList) ∧
    txt = hex (render (bs.foldl (fun h b => feedForward h (compressWords (expandBlock b) h)) romIV))

/-- 30_encoding.md section 6 (R78, R79; spaces, digit case and `;` inside quotes are the model's choice, log entry 20): a
well-formed trace line reads back as itself; and the encoding of an item is its `cmd` value and, for BLOCK, its 64 bytes:
no two of INIT, BLOCK and RSVD3 share one, and from `ready` = 1 such an item is one step with just that on the ports. -/
def Obligations.TraceLinesReadBack : Prop :=
  (∀ l : TraceLine, l.wellFormed = true → parseLine (printLine l) = some l) ∧
  (∀ (i : TraceItem) (c : CmdCode) (bytes : List Byte), itemEncoding i = some (c, bytes) → c ≠ cmdNop →
    (bytes.length = if c = cmdBlock then 64 else 0) ∧
    (∀ j : TraceItem, itemEncoding j = some (c, bytes) → j = i) ∧
    (∀ s : State, ready s = true → ∃ b : Block, runItem i s = stepWith c b s ∧
      b.toList = if c = cmdBlock then bytes else s.blockIn.toList))

/-- 60_exceptions.md section 6 (R178): instances share no writable state: a step of one core leaves every other core,
and is that core's own step. -/
def Obligations.CoresAreIsolated : Prop :=
  ∀ (p : Platform) (k j : Nat), j ≠ k →
    (stepCore k p).cores[j]? = p.cores[j]? ∧ (stepCore k p).cores.length = p.cores.length ∧
    (∀ s u, p.cores[k]? = some s → step s = .next u → (stepCore k p).cores[k]? = some u) ∧
    stepCore k (stepCore j p) = stepCore j (stepCore k p)
end

