-- ==== Sys2Proof/Laws/State.lean ====
section
/-! SUPPORT. One lemma per field per update of State, so that no proof unfolds a record update. -/

namespace Sys2Proof.Laws
open Sys2Proof.Machine

@[simp] theorem setPc_wr (p : Phase) (n : BitVec 6) (s : State) : (setPc p n s).wr = s.wr := rfl
@[simp] theorem setPc_hs (p : Phase) (n : BitVec 6) (s : State) : (setPc p n s).hs = s.hs := rfl
@[simp] theorem setPc_w (p : Phase) (n : BitVec 6) (s : State) : (setPc p n s).w = s.w := rfl
@[simp] theorem setPc_phase (p : Phase) (n : BitVec 6) (s : State) : (setPc p n s).phase = p := rfl
@[simp] theorem setPc_t (p : Phase) (n : BitVec 6) (s : State) : (setPc p n s).t = n := rfl
@[simp] theorem setPc_isOpen (p : Phase) (n : BitVec 6) (s : State) : (setPc p n s).isOpen = s.isOpen := rfl
@[simp] theorem setPc_dv (p : Phase) (n : BitVec 6) (s : State) : (setPc p n s).dv = s.dv := rfl
@[simp] theorem setPc_fcode (p : Phase) (n : BitVec 6) (s : State) : (setPc p n s).fcode = s.fcode := rfl
@[simp] theorem setPc_cmd (p : Phase) (n : BitVec 6) (s : State) : (setPc p n s).cmd = s.cmd := rfl
@[simp] theorem setPc_blockIn (p : Phase) (n : BitVec 6) (s : State) : (setPc p n s).blockIn = s.blockIn := rfl
@[simp] theorem setPc_pending (p : Phase) (n : BitVec 6) (s : State) : (setPc p n s).pending = s.pending := rfl
@[simp] theorem setPc_draws (p : Phase) (n : BitVec 6) (s : State) : (setPc p n s).draws = s.draws := rfl

@[simp] theorem writeHs_wr (v : State8) (s : State) : (writeHs v s).wr = s.wr := rfl
@[simp] theorem writeHs_hs (v : State8) (s : State) : (writeHs v s).hs = v := rfl
@[simp] theorem writeHs_w (v : State8) (s : State) : (writeHs v s).w = s.w := rfl
@[simp] theorem writeHs_phase (v : State8) (s : State) : (writeHs v s).phase = s.phase := rfl
@[simp] theorem writeHs_t (v : State8) (s : State) : (writeHs v s).t = s.t := rfl
@[simp] theorem writeHs_isOpen (v : State8) (s : State) : (writeHs v s).isOpen = s.isOpen := rfl
@[simp] theorem writeHs_dv (v : State8) (s : State) : (writeHs v s).dv = s.dv := rfl
@[simp] theorem writeHs_fcode (v : State8) (s : State) : (writeHs v s).fcode = s.fcode := rfl
@[simp] theorem writeHs_cmd (v : State8) (s : State) : (writeHs v s).cmd = s.cmd := rfl
@[simp] theorem writeHs_blockIn (v : State8) (s : State) : (writeHs v s).blockIn = s.blockIn := rfl
@[simp] theorem writeHs_pending (v : State8) (s : State) : (writeHs v s).pending = s.pending := rfl
@[simp] theorem writeHs_draws (v : State8) (s : State) : (writeHs v s).draws = s.draws := rfl

@[simp] theorem writeWr_wr (v : State8) (s : State) : (writeWr v s).wr = v := rfl
@[simp] theorem writeWr_hs (v : State8) (s : State) : (writeWr v s).hs = s.hs := rfl
@[simp] theorem writeWr_w (v : State8) (s : State) : (writeWr v s).w = s.w := rfl
@[simp] theorem writeWr_phase (v : State8) (s : State) : (writeWr v s).phase = s.phase := rfl
@[simp] theorem writeWr_t (v : State8) (s : State) : (writeWr v s).t = s.t := rfl
@[simp] theorem writeWr_isOpen (v : State8) (s : State) : (writeWr v s).isOpen = s.isOpen := rfl
@[simp] theorem writeWr_dv (v : State8) (s : State) : (writeWr v s).dv = s.dv := rfl
@[simp] theorem writeWr_fcode (v : State8) (s : State) : (writeWr v s).fcode = s.fcode := rfl
@[simp] theorem writeWr_cmd (v : State8) (s : State) : (writeWr v s).cmd = s.cmd := rfl
@[simp] theorem writeWr_blockIn (v : State8) (s : State) : (writeWr v s).blockIn = s.blockIn := rfl
@[simp] theorem writeWr_pending (v : State8) (s : State) : (writeWr v s).pending = s.pending := rfl
@[simp] theorem writeWr_draws (v : State8) (s : State) : (writeWr v s).draws = s.draws := rfl

@[simp] theorem writeW_wr (v : Schedule) (s : State) : (writeW v s).wr = s.wr := rfl
@[simp] theorem writeW_hs (v : Schedule) (s : State) : (writeW v s).hs = s.hs := rfl
@[simp] theorem writeW_w (v : Schedule) (s : State) : (writeW v s).w = v := rfl
@[simp] theorem writeW_phase (v : Schedule) (s : State) : (writeW v s).phase = s.phase := rfl
@[simp] theorem writeW_t (v : Schedule) (s : State) : (writeW v s).t = s.t := rfl
@[simp] theorem writeW_isOpen (v : Schedule) (s : State) : (writeW v s).isOpen = s.isOpen := rfl
@[simp] theorem writeW_dv (v : Schedule) (s : State) : (writeW v s).dv = s.dv := rfl
@[simp] theorem writeW_fcode (v : Schedule) (s : State) : (writeW v s).fcode = s.fcode := rfl
@[simp] theorem writeW_cmd (v : Schedule) (s : State) : (writeW v s).cmd = s.cmd := rfl
@[simp] theorem writeW_blockIn (v : Schedule) (s : State) : (writeW v s).blockIn = s.blockIn := rfl
@[simp] theorem writeW_pending (v : Schedule) (s : State) : (writeW v s).pending = s.pending := rfl
@[simp] theorem writeW_draws (v : Schedule) (s : State) : (writeW v s).draws = s.draws := rfl

@[simp] theorem flagsInit_wr (s : State) : (flagsInit s).wr = s.wr := rfl
@[simp] theorem flagsInit_hs (s : State) : (flagsInit s).hs = s.hs := rfl
@[simp] theorem flagsInit_w (s : State) : (flagsInit s).w = s.w := rfl
@[simp] theorem flagsInit_phase (s : State) : (flagsInit s).phase = s.phase := rfl
@[simp] theorem flagsInit_t (s : State) : (flagsInit s).t = s.t := rfl
@[simp] theorem flagsInit_isOpen (s : State) : (flagsInit s).isOpen = true := rfl
@[simp] theorem flagsInit_dv (s : State) : (flagsInit s).dv = false := rfl
@[simp] theorem flagsInit_fcode (s : State) : (flagsInit s).fcode = s.fcode := rfl
@[simp] theorem flagsInit_cmd (s : State) : (flagsInit s).cmd = s.cmd := rfl
@[simp] theorem flagsInit_blockIn (s : State) : (flagsInit s).blockIn = s.blockIn := rfl
@[simp] theorem flagsInit_pending (s : State) : (flagsInit s).pending = s.pending := rfl
@[simp] theorem flagsInit_draws (s : State) : (flagsInit s).draws = s.draws := rfl

@[simp] theorem flagsBlock_wr (s : State) : (flagsBlock s).wr = s.wr := rfl
@[simp] theorem flagsBlock_hs (s : State) : (flagsBlock s).hs = s.hs := rfl
@[simp] theorem flagsBlock_w (s : State) : (flagsBlock s).w = s.w := rfl
@[simp] theorem flagsBlock_phase (s : State) : (flagsBlock s).phase = s.phase := rfl
@[simp] theorem flagsBlock_t (s : State) : (flagsBlock s).t = s.t := rfl
@[simp] theorem flagsBlock_isOpen (s : State) : (flagsBlock s).isOpen = s.isOpen := rfl
@[simp] theorem flagsBlock_dv (s : State) : (flagsBlock s).dv = false := rfl
@[simp] theorem flagsBlock_fcode (s : State) : (flagsBlock s).fcode = s.fcode := rfl
@[simp] theorem flagsBlock_cmd (s : State) : (flagsBlock s).cmd = s.cmd := rfl
@[simp] theorem flagsBlock_blockIn (s : State) : (flagsBlock s).blockIn = s.blockIn := rfl
@[simp] theorem flagsBlock_pending (s : State) : (flagsBlock s).pending = s.pending := rfl
@[simp] theorem flagsBlock_draws (s : State) : (flagsBlock s).draws = s.draws := rfl

@[simp] theorem flagsFeed_wr (s : State) : (flagsFeed s).wr = s.wr := rfl
@[simp] theorem flagsFeed_hs (s : State) : (flagsFeed s).hs = s.hs := rfl
@[simp] theorem flagsFeed_w (s : State) : (flagsFeed s).w = s.w := rfl
@[simp] theorem flagsFeed_phase (s : State) : (flagsFeed s).phase = s.phase := rfl
@[simp] theorem flagsFeed_t (s : State) : (flagsFeed s).t = s.t := rfl
@[simp] theorem flagsFeed_isOpen (s : State) : (flagsFeed s).isOpen = s.isOpen := rfl
@[simp] theorem flagsFeed_dv (s : State) : (flagsFeed s).dv = true := rfl
@[simp] theorem flagsFeed_fcode (s : State) : (flagsFeed s).fcode = s.fcode := rfl
@[simp] theorem flagsFeed_cmd (s : State) : (flagsFeed s).cmd = s.cmd := rfl
@[simp] theorem flagsFeed_blockIn (s : State) : (flagsFeed s).blockIn = s.blockIn := rfl
@[simp] theorem flagsFeed_pending (s : State) : (flagsFeed s).pending = s.pending := rfl
@[simp] theorem flagsFeed_draws (s : State) : (flagsFeed s).draws = s.draws := rfl

@[simp] theorem flagsFault_wr (s : State) : (flagsFault s).wr = s.wr := rfl
@[simp] theorem flagsFault_hs (s : State) : (flagsFault s).hs = s.hs := rfl
@[simp] theorem flagsFault_w (s : State) : (flagsFault s).w = s.w := rfl
@[simp] theorem flagsFault_phase (s : State) : (flagsFault s).phase = s.phase := rfl
@[simp] theorem flagsFault_t (s : State) : (flagsFault s).t = s.t := rfl
@[simp] theorem flagsFault_isOpen (s : State) : (flagsFault s).isOpen = false := rfl
@[simp] theorem flagsFault_dv (s : State) : (flagsFault s).dv = false := rfl
@[simp] theorem flagsFault_fcode (s : State) : (flagsFault s).fcode = s.fcode := rfl
@[simp] theorem flagsFault_cmd (s : State) : (flagsFault s).cmd = s.cmd := rfl
@[simp] theorem flagsFault_blockIn (s : State) : (flagsFault s).blockIn = s.blockIn := rfl
@[simp] theorem flagsFault_pending (s : State) : (flagsFault s).pending = s.pending := rfl
@[simp] theorem flagsFault_draws (s : State) : (flagsFault s).draws = s.draws := rfl

@[simp] theorem flagsReset_wr (s : State) : (flagsReset s).wr = s.wr := rfl
@[simp] theorem flagsReset_hs (s : State) : (flagsReset s).hs = s.hs := rfl
@[simp] theorem flagsReset_w (s : State) : (flagsReset s).w = s.w := rfl
@[simp] theorem flagsReset_phase (s : State) : (flagsReset s).phase = s.phase := rfl
@[simp] theorem flagsReset_t (s : State) : (flagsReset s).t = s.t := rfl
@[simp] theorem flagsReset_isOpen (s : State) : (flagsReset s).isOpen = false := rfl
@[simp] theorem flagsReset_dv (s : State) : (flagsReset s).dv = false := rfl
@[simp] theorem flagsReset_fcode (s : State) : (flagsReset s).fcode = s.fcode := rfl
@[simp] theorem flagsReset_cmd (s : State) : (flagsReset s).cmd = s.cmd := rfl
@[simp] theorem flagsReset_blockIn (s : State) : (flagsReset s).blockIn = s.blockIn := rfl
@[simp] theorem flagsReset_pending (s : State) : (flagsReset s).pending = s.pending := rfl
@[simp] theorem flagsReset_draws (s : State) : (flagsReset s).draws = s.draws := rfl

@[simp] theorem drivePorts_wr (c : CmdCode) (b : Block) (s : State) : (drivePorts c b s).wr = s.wr := rfl
@[simp] theorem drivePorts_hs (c : CmdCode) (b : Block) (s : State) : (drivePorts c b s).hs = s.hs := rfl
@[simp] theorem drivePorts_w (c : CmdCode) (b : Block) (s : State) : (drivePorts c b s).w = s.w := rfl
@[simp] theorem drivePorts_phase (c : CmdCode) (b : Block) (s : State) : (drivePorts c b s).phase = s.phase := rfl
@[simp] theorem drivePorts_t (c : CmdCode) (b : Block) (s : State) : (drivePorts c b s).t = s.t := rfl
@[simp] theorem drivePorts_isOpen (c : CmdCode) (b : Block) (s : State) : (drivePorts c b s).isOpen = s.isOpen := rfl
@[simp] theorem drivePorts_dv (c : CmdCode) (b : Block) (s : State) : (drivePorts c b s).dv = s.dv := rfl
@[simp] theorem drivePorts_fcode (c : CmdCode) (b : Block) (s : State) : (drivePorts c b s).fcode = s.fcode := rfl
@[simp] theorem drivePorts_cmd (c : CmdCode) (b : Block) (s : State) : (drivePorts c b s).cmd = c := rfl
@[simp] theorem drivePorts_blockIn (c : CmdCode) (b : Block) (s : State) : (drivePorts c b s).blockIn = b := rfl
@[simp] theorem drivePorts_pending (c : CmdCode) (b : Block) (s : State) : (drivePorts c b s).pending = s.pending := rfl
@[simp] theorem drivePorts_draws (c : CmdCode) (b : Block) (s : State) : (drivePorts c b s).draws = s.draws := rfl

@[simp] theorem raise_wr (c : FaultCause) (s : State) : (raise c s).wr = s.wr := rfl
@[simp] theorem raise_hs (c : FaultCause) (s : State) : (raise c s).hs = s.hs := rfl
@[simp] theorem raise_w (c : FaultCause) (s : State) : (raise c s).w = s.w := rfl
@[simp] theorem raise_phase (c : FaultCause) (s : State) : (raise c s).phase = .fault := rfl
@[simp] theorem raise_t (c : FaultCause) (s : State) : (raise c s).t = 0 := rfl
@[simp] theorem raise_isOpen (c : FaultCause) (s : State) : (raise c s).isOpen = false := rfl
@[simp] theorem raise_dv (c : FaultCause) (s : State) : (raise c s).dv = false := rfl
@[simp] theorem raise_fcode (c : FaultCause) (s : State) : (raise c s).fcode = faultCode c := rfl
@[simp] theorem raise_cmd (c : FaultCause) (s : State) : (raise c s).cmd = s.cmd := rfl
@[simp] theorem raise_blockIn (c : FaultCause) (s : State) : (raise c s).blockIn = s.blockIn := rfl
@[simp] theorem raise_pending (c : FaultCause) (s : State) : (raise c s).pending = s.pending := rfl
@[simp] theorem raise_draws (c : FaultCause) (s : State) : (raise c s).draws = s.draws := rfl

@[simp] theorem resetEvent_wr (s : State) : (resetEvent s).wr = freeWords (s.draws + 8) 8 := rfl
@[simp] theorem resetEvent_hs (s : State) : (resetEvent s).hs = freeWords s.draws 8 := rfl
@[simp] theorem resetEvent_w (s : State) : (resetEvent s).w = freeWords (s.draws + 16) 64 := rfl
@[simp] theorem resetEvent_phase (s : State) : (resetEvent s).phase = .idle := rfl
@[simp] theorem resetEvent_t (s : State) : (resetEvent s).t = 0 := rfl
@[simp] theorem resetEvent_isOpen (s : State) : (resetEvent s).isOpen = false := rfl
@[simp] theorem resetEvent_dv (s : State) : (resetEvent s).dv = false := rfl
@[simp] theorem resetEvent_fcode (s : State) : (resetEvent s).fcode = 0 := rfl
@[simp] theorem resetEvent_cmd (s : State) : (resetEvent s).cmd = s.cmd := rfl
@[simp] theorem resetEvent_blockIn (s : State) : (resetEvent s).blockIn = s.blockIn := rfl
@[simp] theorem resetEvent_pending (s : State) : (resetEvent s).pending = s.pending := rfl
@[simp] theorem resetEvent_draws (s : State) : (resetEvent s).draws = s.draws + drawStride := rfl

@[simp] theorem advance_wr (p q : Phase) (s : State) : (advance p q s).wr = s.wr := by
  unfold advance; split <;> rfl
@[simp] theorem advance_hs (p q : Phase) (s : State) : (advance p q s).hs = s.hs := by
  unfold advance; split <;> rfl
@[simp] theorem advance_w (p q : Phase) (s : State) : (advance p q s).w = s.w := by
  unfold advance; split <;> rfl
@[simp] theorem advance_isOpen (p q : Phase) (s : State) : (advance p q s).isOpen = s.isOpen := by
  unfold advance; split <;> rfl
@[simp] theorem advance_dv (p q : Phase) (s : State) : (advance p q s).dv = s.dv := by
  unfold advance; split <;> rfl
@[simp] theorem advance_fcode (p q : Phase) (s : State) : (advance p q s).fcode = s.fcode := by
  unfold advance; split <;> rfl
@[simp] theorem advance_cmd (p q : Phase) (s : State) : (advance p q s).cmd = s.cmd := by
  unfold advance; split <;> rfl
@[simp] theorem advance_blockIn (p q : Phase) (s : State) : (advance p q s).blockIn = s.blockIn := by
  unfold advance; split <;> rfl
@[simp] theorem advance_pending (p q : Phase) (s : State) : (advance p q s).pending = s.pending := by
  unfold advance; split <;> rfl
@[simp] theorem advance_draws (p q : Phase) (s : State) : (advance p q s).draws = s.draws := by
  unfold advance; split <;> rfl

@[simp] theorem advance_phase (p q : Phase) (s : State) :
    (advance p q s).phase = if s.t = 63 then q else p := by
  unfold advance; split <;> rfl

@[simp] theorem advance_t (p q : Phase) (s : State) :
    (advance p q s).t = if s.t = 63 then 0 else s.t + 1 := by
  unfold advance; split <;> rfl

theorem advance_of_last (p q : Phase) {s : State} (h : s.t = 63) : advance p q s = setPc q 0 s := by
  rw [advance, if_pos h]

theorem advance_of_not_last (p q : Phase) {s : State} (h : s.t ≠ 63) :
    advance p q s = setPc p (s.t + 1) s := by
  rw [advance, if_neg h]

/-- Below 63 the counter's next value is one more, as plain integers (10_state.md R29 "`t` never wraps"). -/
theorem toNat_succ_of_not_last {t : BitVec 6} (h : t ≠ 63) : (t + 1).toNat = t.toNat + 1 ∧ t.toNat ≤ 62 := by
  have h63 : t.toNat ≠ 63 := fun e => h (BitVec.eq_of_toNat_eq (by simpa using e))
  have hlt := t.isLt
  constructor
  · simp [BitVec.toNat_add]; omega
  · omega

end Sys2Proof.Laws
end

