-- ==== Sys2Proof/Laws/Ops.lean ====
section
/-! SUPPORT. What each shared operation and each step can do, said once: later proofs cite these lemmas and unfold
nothing. -/

namespace Sys2Proof.Laws
open Sys2Proof.Machine

/-! ### Codes and the decode word -/

@[simp] theorem phaseOfCode_phaseCode (p : Phase) : phaseOfCode (phaseCode p) = some p := by
  cases p <;> decide

theorem phaseCode_ne_unreachable (p : Phase) : phaseCode p ≠ 0b101#3 ∧ phaseCode p ≠ 0b110#3 := by
  cases p <;> decide

/-- What the decode word selects, phase by phase. -/
def selected (p : Phase) (c : CmdCode) : Instr :=
  match p with
  | .idle => if c = cmdNop then .nop else if c = cmdInit then .init else if c = cmdBlock then .block else .rsvd3
  | .sched => .sched c
  | .ldreg => .ldreg c
  | .round => .round c
  | .feed => .feed c
  | .fault => .halt c

theorem decode_phaseCode_append (p : Phase) (c : CmdCode) :
    decode (phaseCode p ++ c) = .ok (selected p c) := by
  revert c; cases p <;> decide

/-- The core never meets a word without a row: it runs the operation its phase and command select. -/
theorem runDecoded_eq_exec (s : State) : runDecoded s = exec (selected s.phase s.cmd) s := by
  simp only [runDecoded, decodeWord, decode_phaseCode_append]

/-! ### One step, by the host's move -/

theorem step_of_reset {s : State} {es : List HostEvent} (h : s.pending = .reset :: es) :
    step s = .next (resetEvent { s with pending := es }) := by
  simp only [step, hostMove, h]

theorem step_of_drive {s : State} {c : CmdCode} {b : Block} {es : List HostEvent}
    (h : s.pending = .drive c b :: es) :
    step s = exec (selected s.phase c) (drivePorts c b { s with pending := es }) := by
  simp only [step, hostMove, h, runDecoded_eq_exec]; rfl

theorem step_of_silent {s : State} (h : s.pending = []) :
    step s = exec (selected s.phase cmdNop) (drivePorts cmdNop s.blockIn s) := by
  simp only [step, hostMove, h, runDecoded_eq_exec]; rfl

/-- One step is the reset event, or one operation on the state with its ports driven. -/
theorem step_cases (s : State) :
    (∃ es, s.pending = .reset :: es ∧ step s = .next (resetEvent { s with pending := es })) ∨
    (∃ b, resetNext s = false ∧
      step s = exec (selected s.phase (sampledCmd s))
        (drivePorts (sampledCmd s) b { s with pending := s.pending.tail })) := by
  match h : s.pending with
  | .reset :: es => exact .inl ⟨es, rfl, step_of_reset h⟩
  | .drive c b :: es =>
    exact .inr ⟨b, by simp [resetNext, h], by simpa [sampledCmd, h] using step_of_drive h⟩
  | [] =>
    refine .inr ⟨s.blockIn, by simp [resetNext, h], ?_⟩
    rw [step_of_silent h]
    simp only [sampledCmd, h, List.tail_nil]
    congr 2
    cases s; simp_all

/-! ### The operations -/

@[simp] theorem exec_nop (s : State) : exec .nop s = .next s := rfl

@[simp] theorem exec_halt (cc : CmdCode) (s : State) : exec (.halt cc) s = .next s := rfl

@[simp] theorem exec_init (s : State) :
    exec .init s = .next (setPc .idle 0 (flagsInit (writeHs romIV s))) := rfl

@[simp] theorem exec_rsvd3 (s : State) : exec .rsvd3 s = .next (raise .reservedCmd s) := rfl

theorem exec_block_open {s : State} (h : s.isOpen = true) :
    exec .block s = .next (setPc .sched 16 (flagsBlock (ldblk s))) := by
  simp only [exec, execBlock, h, if_true]

theorem exec_block_closed {s : State} (h : s.isOpen = false) :
    exec .block s = .next (raise .blockBeforeInit s) := by
  simp [exec, execBlock, h]

theorem exec_sched {s : State} (cc : CmdCode) (h : 16 ≤ s.t.toNat) :
    exec (.sched cc) s =
      .next (advance .sched .ldreg (writeW (s.w.set (indexOf s.t) (schedEntry s.w (indexOf s.t))) s)) := by
  simp only [exec, execSched, h, if_true]

theorem exec_sched_stops {s : State} (cc : CmdCode) (h : s.t.toNat < 16) :
    exec (.sched cc) s = .fault (.scheduleIndex s.t) := by
  simp only [exec, execSched]; rw [if_neg (by omega)]

@[simp] theorem exec_ldreg (cc : CmdCode) (s : State) :
    exec (.ldreg cc) s = .next (setPc .round 0 (writeWr s.hs s)) := rfl

@[simp] theorem exec_round (cc : CmdCode) (s : State) :
    exec (.round cc) s =
      .next (advance .round .feed (writeWr (roundRegs s.wr romK[indexOf s.t] s.w[indexOf s.t]) s)) := rfl

@[simp] theorem exec_feed (cc : CmdCode) (s : State) :
    exec (.feed cc) s = .next (setPc .idle 0 (flagsFeed (writeHs (feedForward s.hs s.wr) s))) := rfl

/-! ### Many steps -/

@[simp] theorem steps_zero (s : State) : steps 0 s = .next s := rfl

theorem steps_succ_of_next {s s' : State} (n : Nat) (h : step s = .next s') :
    steps (n + 1) s = steps n s' := by
  simp only [steps, h]

theorem steps_add {n m : Nat} {s s' : State} (h : steps n s = .next s') :
    steps (n + m) s = steps m s' := by
  induction n generalizing s with
  | zero => simp only [steps, Host.Outcome.next.injEq] at h; simp [h]
  | succ n ih =>
    rw [Nat.add_right_comm]
    simp only [steps] at h ⊢
    cases hs : step s with
    | next u => simp only [hs] at h ⊢; exact ih h
    | fault r => simp [hs] at h
    | refused r => simp [hs] at h

/-- The host's run of the machine is `steps`. -/
theorem core_run_eq_steps (n : Nat) (s : State) : Sys2Proof.core.run n s = steps n s := by
  induction n generalizing s with
  | zero => rfl
  | succ n ih =>
    cases hs : step s with
    | next u =>
      have h : Sys2Proof.core.step s = .next u := hs
      simp only [Host.Core.run, h, steps, hs]; exact ih u
    | fault r =>
      have h : Sys2Proof.core.step s = .fault r := hs
      simp only [Host.Core.run, h, steps, hs]; rfl
    | refused r =>
      have h : Sys2Proof.core.step s = .refused r := hs
      simp only [Host.Core.run, h, steps, hs]; rfl

@[simp] theorem andThen_next (s : State) (f : State → Host.Outcome State Fault Refusal) :
    andThen (.next s) f = f s := rfl

/-! ### The arrays -/

@[simp] theorem indexOf_val (t : BitVec 6) : (indexOf t).val = t.toNat := rfl

theorem loadBlock_low (b : Block) (w : Schedule) (i : Nat) (h : i < 16) :
    (loadBlock b w)[i]'(by omega) = blockWord b ⟨i, h⟩ := by
  simp [loadBlock, h]

theorem loadBlock_high (b : Block) (w : Schedule) (i : Nat) (h : i < 64) (hi : 16 ≤ i) :
    (loadBlock b w)[i] = w[i] := by
  have : ¬ i < 16 := by omega
  simp [loadBlock, this]

/-- Deriving entries touches only the indices derived. -/
theorem expandLoop_frame (w : Schedule) (n i : Nat) (h : i < 64) (hi : i < 16 ∨ 16 + n ≤ i) :
    (expandLoop w n)[i] = w[i] := by
  induction n with
  | zero => rfl
  | succ n ih =>
    simp only [expandLoop]
    split
    · rw [Vector.getElem_set_ne _ _ (by omega)]; exact ih (by omega)
    · exact ih (by omega)

theorem expandLoop_succ (w : Schedule) (n : Nat) (h : 16 + n < 64) :
    expandLoop w (n + 1) = (expandLoop w n).set (16 + n) (schedEntry (expandLoop w n) ⟨16 + n, h⟩) := by
  simp only [expandLoop, h, dif_pos]

theorem compressLoop_succ (w : Schedule) (r : State8) (n : Nat) (h : n < 64) :
    compressLoop w r (n + 1) = roundRegs (compressLoop w r n) romK[n] w[n] := by
  simp only [compressLoop, h, dif_pos]

/-- The ROM read through the spec's rows of four. -/
theorem romK_get (i : Nat) (h : i < 64) : romK[i] = romKRows[i / 4][i % 4] := by
  simp [romK]

@[simp] theorem feedForward_get (hs out : State8) (j : Nat) (h : j < 8) :
    (feedForward hs out)[j] = hs[j] + out[j] := by
  simp [feedForward, add32]

end Sys2Proof.Laws
end

