-- ==== Sys2Proof/Laws/Host.lean ====
section
/-! SUPPORT. What the host that keeps R200 can put on the ports, and what one of its moves can do: later proofs cite
these lemmas and do not unfold the agent. -/

namespace Sys2Proof.Laws
open Sys2Proof.Machine

/-! ### The command its work asks for -/

theorem due_of_resetDue {w : HostWork} (h : w.resetDue = true) : w.due = none := by
  simp only [HostWork.due, h, if_true]

/-- The next message is the first of those not begun, with its blocks. -/
theorem nextMessage_eq_some {w : HostWork} {m : List Byte} {bs : List Block} :
    w.nextMessage = some (m, bs) ↔ w.later.head? = some m ∧ messageBlocks m = .ok bs := by
  unfold HostWork.nextMessage
  cases hl : w.later with
  | nil => simp
  | cons n ms => cases hb : messageBlocks n <;> simp [hb] <;> rintro rfl <;> simp [hb]

/-- A command due is INIT between messages, or BLOCK with the next block of the message begun. -/
theorem due_cases (w : HostWork) :
    w.due = none ∨
    (∃ m bs, w.resetDue = false ∧ w.rest = [] ∧ w.nextMessage = some (m, bs) ∧ w.due = some (cmdInit, none)) ∨
    (∃ b bs, w.resetDue = false ∧ w.rest = b :: bs ∧ w.due = some (cmdBlock, some b)) := by
  unfold HostWork.due
  cases hd : w.resetDue
  · cases hr : w.rest with
    | cons b bs => exact .inr (.inr ⟨b, bs, by simp⟩)
    | nil =>
      match hn : w.nextMessage with
      | some (m, bs) => exact .inr (.inl ⟨m, bs, by simp⟩)
      | none => exact .inl (by simp)
  · exact .inl (by simp)

theorem presented_eq (w : HostWork) (a : HostAct) : w.presented a = none ∨ w.presented a = w.due := by
  cases a <;> simp only [HostWork.presented, true_or, or_true]
  cases w.holding <;> simp

/-- A command being held stays on the port, whatever the host would like (R194). -/
theorem presented_of_holding {w : HostWork} (h : w.holding = true) {a : HostAct} (ha : a ≠ .reset) :
    w.presented a = w.due := by
  cases a <;> simp_all [HostWork.presented]

/-! ### The moves -/

/-- What the ports show when no reset is applied. -/
theorem event_of_ne_reset (s : State) (w : HostWork) {a : HostAct} (ha : a ≠ .reset) :
    ∃ free, w.event s a = match w.presented a with
      | none => .drive cmdNop free
      | some (c, none) => .drive c free
      | some (c, some b) => .drive c (if ready s then b else free) := by
  cases a with
  | reset => exact absurd rfl ha
  | idle free => exact ⟨free, rfl⟩
  | request free => exact ⟨free, rfl⟩

/-- The moves of a lawful host: the reset event, NOP, INIT between messages, the next block of the message begun. The
reserved code is not among them (R200, last column). -/
theorem event_cases (s : State) (w : HostWork) (a : HostAct) :
    (a = .reset ∧ w.event s a = .reset) ∨
    (∃ free, w.presented a = none ∧ w.event s a = .drive cmdNop free) ∨
    (∃ m bs free, w.resetDue = false ∧ w.rest = [] ∧ w.nextMessage = some (m, bs) ∧
      w.presented a = some (cmdInit, none) ∧ w.event s a = .drive cmdInit free) ∨
    (∃ b bs shown, w.resetDue = false ∧ w.rest = b :: bs ∧ w.presented a = some (cmdBlock, some b) ∧
      w.event s a = .drive cmdBlock shown ∧ (ready s = true → shown = b)) := by
  by_cases ha : a = .reset
  · subst ha; exact .inl ⟨rfl, rfl⟩
  · obtain ⟨free, hk⟩ := event_of_ne_reset s w ha
    rcases presented_eq w a with hp | hp
    · rw [hp] at hk; exact .inr (.inl ⟨free, hp, hk⟩)
    · rcases due_cases w with hd | ⟨m, bs, h1, h2, h3, hd⟩ | ⟨b, bs, h1, h2, hd⟩ <;> rw [hp, hd] at hk
      · exact .inr (.inl ⟨free, hp.trans hd, hk⟩)
      · exact .inr (.inr (.inl ⟨m, bs, free, h1, h2, h3, hp.trans hd, hk⟩))
      · exact .inr (.inr (.inr ⟨b, bs, _, h1, h2, hp.trans hd, hk, fun hr => by simp [hr]⟩))

/-! ### One move with its step -/

theorem act_of_next {a : HostAct} {x : Session} {s : State}
    (h : step { x.core with pending := [x.move a] } = .next s) :
    x.act a = .next ⟨(x.host.observe x.core).moved x.core a, s⟩ := by
  simp only [Session.act, h]

theorem act_reset (x : Session) :
    x.act .reset = .next ⟨(x.host.observe x.core).afterReset, resetEvent { x.core with pending := [] }⟩ :=
  act_of_next (step_of_reset rfl)

theorem run_cons_of_next {a : HostAct} {x y : Session} (as : List HostAct) (h : x.act a = .next y) :
    x.run (a :: as) = y.run as := by
  simp only [Session.run, h]

theorem serve_succ_of_next {x y : Session} (n : Nat) (h : x.act x.diligent = .next y) :
    x.serve (n + 1) = y.serve n := by
  simp only [Session.serve, h]

/-! ### What the host sees -/

theorem observe_of_fault {s : State} (w : HostWork) (h : s.phase = .fault) :
    w.observe s = { w with resetDue := true, holding := false } := by
  simp [HostWork.observe, faultOut, h]

/-- Reading the digest takes nothing from the work but a finished message. -/
theorem readResult_cases (s : State) (w : HostWork) :
    w.readResult s = w ∨
    (s.dv = true ∧ w.begun.isSome = true ∧ w.rest = [] ∧
      w.readResult s = { w with begun := none, digests := w.digests ++ [digestOut s] }) := by
  unfold HostWork.readResult
  split
  · next h =>
    rw [Bool.and_eq_true, List.isEmpty_iff] at h
    by_cases hd : s.dv = true
    · exact .inr ⟨hd, h.1, h.2, by simp [readDigest, digestValid, hd]⟩
    · exact .inl (by simp [readDigest, digestValid, hd])
  · exact .inl rfl

/-- Taking up the next message changes nothing, or reports why it is refused and stops. -/
theorem refuse_cases (w : HostWork) :
    w.refuse = w ∨
    (∃ m c, w.resetDue = false ∧ w.begun = none ∧ w.later.head? = some m ∧ messageBlocks m = .error c ∧
      w.refuse = { w with later := [], report := some c }) := by
  unfold HostWork.refuse
  split
  · exact .inl rfl
  · next h =>
    rw [Bool.or_eq_true, not_or, Bool.not_eq_true, Option.not_isSome_iff_eq_none] at h
    cases hl : w.later with
    | nil => exact .inl rfl
    | cons m ms =>
      cases hb : messageBlocks m with
      | ok bs => exact .inl (by simp [hb])
      | error c => exact .inr ⟨m, c, h.1, h.2, by simp, hb, by simp [hb]⟩

theorem observe_of_no_fault {s : State} (w : HostWork) (h : s.phase ≠ .fault) :
    w.observe s = (w.readResult s).refuse := by
  simp [HostWork.observe, faultOut, h]

/-- A message of 2^61 bytes or more has no blocks; the error is the one R165 names. -/
theorem messageBlocks_of_large {m : List Byte} (h : 2 ^ 61 ≤ m.length) :
    messageBlocks m = .error .unsupportedInput := by
  simp only [messageBlocks, pad, h, if_true]; rfl

end Sys2Proof.Laws
end

