-- ==== Sys2Proof/Laws/PerInstr.lean ====
section
/-! SUPPORT. Statements about an operation as syntax, one lemma per constructor. -/

namespace Sys2Proof.Laws

/-- The word of an operation is hit by exactly one row of the decode table (30_encoding.md R75 "the one row"). -/
def OneRow.Statement (i : Instr) : Prop := (decodeTable.filter fun r => r.hits (encode i)).length = 1

theorem OneRow.nop : OneRow.Statement .nop := by unfold OneRow.Statement; decide

theorem OneRow.init : OneRow.Statement .init := by unfold OneRow.Statement; decide

theorem OneRow.block : OneRow.Statement .block := by unfold OneRow.Statement; decide

theorem OneRow.rsvd3 : OneRow.Statement .rsvd3 := by unfold OneRow.Statement; decide

theorem OneRow.sched (cc : CmdCode) : OneRow.Statement (.sched cc) := by
  unfold OneRow.Statement; revert cc; decide

theorem OneRow.ldreg (cc : CmdCode) : OneRow.Statement (.ldreg cc) := by
  unfold OneRow.Statement; revert cc; decide

theorem OneRow.round (cc : CmdCode) : OneRow.Statement (.round cc) := by
  unfold OneRow.Statement; revert cc; decide

theorem OneRow.feed (cc : CmdCode) : OneRow.Statement (.feed cc) := by
  unfold OneRow.Statement; revert cc; decide

theorem OneRow.halt (cc : CmdCode) : OneRow.Statement (.halt cc) := by
  unfold OneRow.Statement; revert cc; decide

end Sys2Proof.Laws
end

