-- ==== Sys2Proof/Tests/Slice0.lean ====
section
/-! SUPPORT. The model's own tests. Every expected value is from spec/: 95_test_vectors.md (its vector names stand in the
comments) or a rule's worked example. The last part gives, for each statement with hypotheses, a state that meets
them. -/

namespace Sys2Proof.Tests
open Sys2Proof.Machine

/-! ### Well-formedness refuses ill-formed terms -/

theorem test_nop_zero_ill_formed : (TraceItem.nop 0).wellFormed = false := by decide

theorem test_nop_one_well_formed : (TraceItem.nop 1).wellFormed = true := by decide

theorem test_hash_too_long_ill_formed : (TraceLine.hash (List.replicate (2 ^ 61) 0)).wellFormed = false := by
  rw [TraceLine.wellFormed, List.length_replicate, decide_eq_false_iff_not]; omega

theorem test_every_operation_well_formed : (Instr.sched 0b11#2).wellFormed = true := by decide

/-! ### Decoding: the words of 30_encoding.md R72, bit by bit -/

theorem test_decode_nop : decode 0b00000#5 = .ok .nop := by decide
theorem test_decode_init : decode 0b00001#5 = .ok .init := by decide
theorem test_decode_block : decode 0b00010#5 = .ok .block := by decide
theorem test_decode_rsvd3 : decode 0b00011#5 = .ok .rsvd3 := by decide
theorem test_decode_sched : decode 0b00110#5 = .ok (.sched 0b10#2) := by decide
theorem test_decode_ldreg : decode 0b01001#5 = .ok (.ldreg 0b01#2) := by decide
theorem test_decode_round : decode 0b01111#5 = .ok (.round 0b11#2) := by decide
theorem test_decode_feed : decode 0b10000#5 = .ok (.feed 0b00#2) := by decide
theorem test_decode_halt : decode 0b11101#5 = .ok (.halt 0b01#2) := by decide
theorem test_decode_unreachable_101 : decode 0b10100#5 = .error (.unreachablePhase 0b101#3) := by decide
theorem test_decode_unreachable_110 : decode 0b11011#5 = .error (.unreachablePhase 0b110#3) := by decide
theorem test_table_word : decodeTableWord 8 0x0c = some (.round 0) ∧ decodeTableWord 8 0x14 = none := by decide

/-! ### Primitives: rows of 95_test_vectors.md section 2 -/

theorem test_add32_wraps : add32 0x6a09e667 0xbb67ae85 = 0x257194ec := by decide
theorem test_rotr_moves_right : rotr 0x12345678 8 = 0x78123456 := by decide
theorem test_rotr_zero : rotr 0x12345678 0 = 0x12345678 := by decide
theorem test_shr_logical : shr 0x80000000 3 = 0x10000000 := by decide
theorem test_ch : ch 0x510e527f 0x9b05688c 0x1f83d9ab = 0x1f85c98c := by decide
theorem test_maj : maj 0xf0f0f0f0 0xcccccccc 0xaaaaaaaa = 0xe8e8e8e8 := by decide
theorem test_bsig0 : bsig0 0x61626364 = 0x8af6024f := by decide
theorem test_bsig1 : bsig1 0x61626364 = 0x4c3817f1 := by decide
theorem test_ssig0 : ssig0 0x61626364 = 0x5c3790f2 := by decide
theorem test_ssig1 : ssig1 0x61626364 = 0x7dc6e405 := by decide

/-! ### Byte order, host duties, trace text -/

/-- S7. -/
theorem test_be32 : be32 0x80 0x00 0x00 0x01 = 0x80000001 ∧ bytesBe32 0x61626364 = #v[0x61, 0x62, 0x63, 0x64] := by
  decide

/-- P3: `pad` of "abcd". -/
theorem test_pad_abcd : pad [0x61, 0x62, 0x63, 0x64] =
    .ok ([0x61, 0x62, 0x63, 0x64, 0x80] ++ List.replicate 51 0x00 ++ [0, 0, 0, 0, 0, 0, 0, 0x20]) := by decide

/-- S4 and S5: 55 bytes give one block, 56 give two. -/
theorem test_pad_boundary : zeroCount 55 = 0 ∧ zeroCount 56 = 63 ∧ zeroCount 0 = 55 := by decide

/-- R115: `HS[0]` = ba7816bf gives "ba7816bf". -/
theorem test_hex_bytes : [0xba#8, 0x78#8, 0x16#8, 0xbf#8].flatMap hexByte = ['b', 'a', '7', '8', '1', '6', 'b', 'f'] := by
  decide

/-- S1: the document's own digest, of the empty message (90_conflicts.md C1). -/
theorem test_hash_empty : hashMessage [] = .ok
    [ 'e', '3', 'b', '0', 'c', '4', '4', '2', '9', '8', 'f', 'c', '1', 'c', '1', '4',
      '9', 'a', 'f', 'b', 'f', '4', 'c', '8', '9', '9', '6', 'f', 'b', '9', '2', '4',
      '2', '7', 'a', 'e', '4', '1', 'e', '4', '6', '4', '9', 'b', '9', '3', '4', 'c',
      'a', '4', '9', '5', '9', '9', '1', 'b', '7', '8', '5', '2', 'b', '8', '5', '5' ] := by decide +kernel

/-- R78: a comment follows an item; NOP without a number is one step. -/
theorem test_parse_nop : parseLine ['N', 'O', 'P', ' ', '1', '2', ' ', ';', 'x'] = some (.item (.nop 12)) ∧
    parseLine ['N', 'O', 'P'] = some (.item (.nop 1)) ∧ parseLine ['N', 'O', 'P', ' ', '0'] = none := by decide

/-- R79: a quoted message and a message in digits. -/
theorem test_parse_hash : parseLine ['H', 'A', 'S', 'H', ' ', '"', 'a', 'b', '"'] = some (.hash [0x61, 0x62]) ∧
    parseLine ['H', 'A', 'S', 'H', ' ', 'x', '6', '1', '6', '2'] = some (.hash [0x61, 0x62]) := by decide

/-- 95_test_vectors.md section 9, program 6: the digits of a BLOCK on the two lines under it. -/
theorem test_parse_program6 :
    (parseText
      [ ['R', 'E', 'S', 'E', 'T'], ['I', 'N', 'I', 'T', ' ', ';', 'c'],
        ['B', 'L', 'O', 'C', 'K', ' ', ' ', ';', ' ', 'c', 'm', 'd'],
        List.replicate 6 ' ' ++ List.replicate 64 '0', List.replicate 6 ' ' ++ List.replicate 64 '0',
        ['W', 'A', 'I', 'T'] ]) =
    some [.item .reset, .item .init, .item (.block (Vector.replicate 64 0)), .item .wait] := by decide

/-! ### One operation on a small state -/

/-- The block of the empty message (P1). -/
def emptyBlock : Block := Vector.ofFn fun i => if i.val = 0 then 0x80 else 0x00

/-- An open core in (IDLE, 0) after INIT, the block of the empty message on its port. -/
def opened : State where
  wr := romIV
  hs := romIV
  w := loadBlock emptyBlock (Vector.replicate 64 0)
  phase := .idle
  t := 0
  isOpen := true
  dv := false
  fcode := 0
  cmd := 0
  blockIn := emptyBlock
  pending := []
  draws := 0

/-- The same core before any INIT. -/
def closed : State := { opened with isOpen := false }

/-- Read one thing off a next state. -/
def after {α : Type} (o : Host.Outcome State Fault Refusal) (f : State → α) : Option α :=
  match o with
  | .next s => some (f s)
  | .fault _ => none
  | .refused _ => none

/-- F2: NOP leaves the state. -/
theorem test_exec_nop : after (exec .nop opened) id = some opened := by decide

/-- F5: after INIT `HS` = `IV`, `open` = 1, `dv` = 0. -/
theorem test_exec_init : after (exec .init { closed with hs := Vector.replicate 8 7, dv := true })
    (fun s => (s.hs[0], s.hs[7], s.isOpen, s.dv)) = some (0x6a09e667, 0x5be0cd19, true, false) := by decide

/-- R144, worked example; Q2 step 2. -/
theorem test_exec_block : after (exec .block { opened with w := Vector.replicate 64 5 })
    (fun s => (s.w[0], s.w[15], s.w[16], s.phase, s.t)) = some (0x80000000, 0, 5, .sched, 16) := by decide

/-- F3: BLOCK before INIT: code 4, `W` not loaded. -/
theorem test_exec_block_closed : after (exec .block { closed with w := Vector.replicate 64 5 })
    (fun s => (s.phase, s.fcode, s.w[0], s.isOpen)) = some (.fault, 4, 5, false) := by decide

/-- F6: the reserved command: code 5, `HS` kept. -/
theorem test_exec_rsvd3 : after (exec .rsvd3 opened) (fun s => (s.phase, s.fcode, s.isOpen, s.hs[0])) =
    some (.fault, 5, false, 0x6a09e667) := by decide

/-- W1: `W[16]`. -/
theorem test_exec_sched_first : after (exec (.sched 0) { opened with phase := .sched, t := 16 })
    (fun s => (s.w[16], s.phase, s.t)) = some (0x80000000, .sched, 17) := by decide

/-- Q2 step 50: from (SCHED, 63) to (LDREG, 0). -/
theorem test_exec_sched_last : after (exec (.sched 0) { opened with phase := .sched, t := 63 })
    (fun s => (s.phase, s.t)) = some (.ldreg, 0) := by decide

/-- Log entry 6: no index `t - 16`. -/
theorem test_exec_sched_stops : (match exec (.sched 0) opened with | .fault r => some r | _ => none) =
    some (.scheduleIndex 0) := by decide

/-- R131: `wr` becomes `HS`. -/
theorem test_exec_ldreg : after (exec (.ldreg 0) { opened with wr := Vector.replicate 8 0 })
    (fun s => (s.wr[0], s.wr[7], s.phase, s.t)) = some (0x6a09e667, 0x5be0cd19, .round, 0) := by decide

/-- T1, round 0: all eight registers. -/
theorem test_exec_round_first : after (exec (.round 0) { opened with phase := .round }) (fun s => s.wr) =
    some #v[0x7c08884d, 0x6a09e667, 0xbb67ae85, 0x3c6ef372, 0x18c7e2a2, 0x510e527f, 0x9b05688c, 0x1f83d9ab] := by
  decide

/-- T1, round 63. -/
theorem test_exec_round_last :
    after (exec (.round 3) { opened with
        phase := .round, t := 63, w := (Vector.replicate 64 0).set 63 0x3b5ec49b,
        wr := #v[0xdd946d8f, 0x5e8d0156, 0xf41fc3ea, 0x04441c0e, 0xc9962ac0, 0x8511bf70, 0x1c71eb3c, 0xaaefa044] })
      (fun s => (s.wr, s.phase)) =
    some (#v[0x79a6dddb, 0xdd946d8f, 0x5e8d0156, 0xf41fc3ea, 0xd69fef65, 0xc9962ac0, 0x8511bf70, 0x1c71eb3c], .feed) := by
  decide

/-- A1: FEED for the empty message. -/
theorem test_exec_feed :
    after (exec (.feed 0) { opened with
        wr := #v[0x79a6dddb, 0xdd946d8f, 0x5e8d0156, 0xf41fc3ea, 0xd69fef65, 0xc9962ac0, 0x8511bf70, 0x1c71eb3c] })
      (fun s => (s.hs, s.dv)) =
    some (#v[0xe3b0c442, 0x98fc1c14, 0x9afbf4c8, 0x996fb924, 0x27ae41e4, 0x649b934c, 0xa495991b, 0x7852b855], true) := by
  decide

/-- F8: in FAULT an INIT on the port is not accepted. -/
theorem test_step_halt : after (stepWith cmdInit emptyBlock { closed with phase := .fault, fcode := 5 })
    (fun s => (s.phase, s.fcode, s.isOpen)) = some (.fault, 5, false) := by decide

/-- F10: reset in mid-block. -/
theorem test_step_reset : after (resetNow { opened with phase := .round, t := 11 })
    (fun s => (s.phase, s.t, s.isOpen, s.fcode)) = some (.idle, 0, false, 0) := by decide

/-- The word of SCHED placed after reset runs SCHED at index 16. -/
theorem test_placed_word_runs : after (step (State.reset.withFetchWord 8 0x05)) (fun s => (s.phase, s.t)) =
    some (.sched, 17) := by decide

/-- 20_memory.md R51: the first bytes of `K[0]` = 428a2f98. -/
theorem test_krom_bytes : memRead .krom opened 0 4 = some [0x42, 0x8a, 0x2f, 0x98] ∧
    memRead .ivrom opened 30 4 = none := by decide

/-- R25: entries of the round-constant ROM from the first, an inner and the last row of its table. -/
theorem test_rom_entries : romK[0] = 0x428a2f98 ∧ romK[29] = 0xd5a79147 ∧ romK[63] = 0xc67178f2 := by decide

/-- R78: the encoding of an item. -/
theorem test_item_encoding : itemEncoding (.block emptyBlock) = some (0b10#2, emptyBlock.toList) ∧
    itemEncoding .init = some (0b01#2, []) ∧ itemEncoding .reset = none := by decide

/-! ### The host that keeps R200 -/

/-- A host with the empty message to hash that has applied reset and presents INIT to a core busy in FEED. -/
def holdingInit : Session :=
  ⟨{ HostWork.start [[]] with resetDue := false, holding := true }, { opened with phase := .feed }⟩

/-- R194: a command not accepted stays on the port, though the host would rather idle, and is accepted with `ready`
= 1. -/
theorem test_held_until_ready :
    (match Session.run [.idle emptyBlock, .idle emptyBlock] holdingInit with
      | .next x => some (x.core.phase, x.core.dv, x.host.holding, x.host.rest)
      | _ => none) = some (.idle, false, false, [emptyBlock]) ∧
    holdingInit.move (.idle emptyBlock) = .drive cmdInit emptyBlock := by decide

/-- R192 step 3: with `fault` = 1 the host asks for nothing, its next move of the sequence is reset, and the message
begun is begun again from its first block. -/
theorem test_fault_goes_to_reset :
    let x : Session := ⟨{ HostWork.start [] with resetDue := false, begun := some [] },
      { closed with phase := .fault, fcode := 4 }⟩
    x.move (.request emptyBlock) = .drive cmdNop emptyBlock ∧ x.diligent = .reset ∧
    (match x.serve 2 with | .next y => some (y.core.phase, y.core.isOpen, y.host.rest) | _ => none) =
      some (.idle, true, [emptyBlock]) := by decide

/-! ### Witnesses: each statement's hypotheses can be met together -/

theorem opened_inv : Inv opened := by
  constructor <;> simp [opened, busy]

/-- StepRunsDecodedInstruction, SchedStepsComputeExpand, BlockOperationAbsorbs: an open idle core, a BLOCK, no reset. -/
theorem witness_block_presented :
    let s := { opened with pending := HostEvent.drive cmdBlock emptyBlock :: List.replicate 114 (.drive cmdRsvd3 emptyBlock) }
    s.phase = .idle ∧ s.t = 0 ∧ s.isOpen = true ∧ s.fcode = 0 ∧
      decode (phaseCode s.phase ++ cmdBlock) = .ok .block ∧
      s.pending = .drive cmdBlock emptyBlock :: List.replicate 114 (.drive cmdRsvd3 emptyBlock) ∧
      ∀ e ∈ (List.replicate 114 (HostEvent.drive cmdRsvd3 emptyBlock)).take 114, e ≠ .reset := by
  refine ⟨rfl, rfl, rfl, rfl, by decide, rfl, ?_⟩
  intro e he
  have h := List.eq_of_mem_replicate (List.mem_of_mem_take he)
  simp [h]

/-- StepRunsDecodedInstruction, second and third clauses. -/
theorem witness_silent_and_reset :
    (opened.pending = [] ∧ decode (phaseCode opened.phase ++ cmdNop) = .ok .nop) ∧
    ({ opened with pending := [HostEvent.reset] } : State).pending = HostEvent.reset :: [] := by
  exact ⟨⟨rfl, by decide⟩, rfl⟩

/-- BlockAcceptedLoadsWords, and the first clause of FaultEntryIsPrecise. -/
theorem witness_open_and_closed : opened.isOpen = true ∧ closed.isOpen = false := by decide

/-- FaultEntryIsPrecise, third and fourth clauses. -/
theorem witness_accepted :
    accepts cmdBlock { closed with pending := [.drive cmdBlock emptyBlock] } ∧
    accepts cmdRsvd3 { opened with pending := [.drive cmdRsvd3 emptyBlock] } := by
  simp [accepts, resetNext, sampledCmd, opened, closed]

/-- SchedWritesOneEntry and SchedBelowSixteenStops, at the bounds of `t`. -/
theorem witness_sched_bounds :
    16 ≤ (16#6).toNat ∧ 16 ≤ (63#6).toNat ∧ (15#6).toNat < 16 ∧ (16#6 : BitVec 6) ≠ 63 := by decide

/-- PositionTable, FlagTable, FaultCodeWriters, RegisterFileWriters, FaultsOnlyByProtocol, DigestStableWhileValid: a
step that answers a next state, from a state with the invariants, no reset, a disciplined host, a valid digest. -/
theorem witness_step_from_inv :
    Inv { opened with dv := true } ∧ resetNext { opened with dv := true } = false ∧
      disciplined { opened with dv := true } ∧ ({ opened with dv := true } : State).phase ≠ .fault ∧
      step { opened with dv := true } = .next { opened with dv := true } := by
  refine ⟨?_, rfl, ?_, by decide, rfl⟩
  · constructor <;> simp [opened, busy]
  · simp [disciplined, opened]

/-- PositionTable's clauses: a state in each phase at the ends of `t`'s range, all with the invariants. -/
theorem witness_phases :
    Inv { opened with phase := .sched, t := 16 } ∧ Inv { opened with phase := .sched, t := 63 } ∧
    Inv { opened with phase := .ldreg } ∧ Inv { opened with phase := .round } ∧
    Inv { opened with phase := .round, t := 63 } ∧ Inv { opened with phase := .feed } ∧
    Inv { closed with phase := .fault, fcode := 4 } ∧ Inv closed := by
  refine ⟨?_, ?_, ?_, ?_, ?_, ?_, ?_, ?_⟩ <;> constructor <;> simp [opened, closed, busy, faultCode]

/-- PositionTable, FlagTable, FaultCodeWriters: each command accepted, and the reset event next. -/
theorem witness_each_command :
    accepts cmdNop opened ∧ accepts cmdInit { opened with pending := [.drive cmdInit emptyBlock] } ∧
    accepts cmdBlock { opened with pending := [.drive cmdBlock emptyBlock] } ∧
    faultsNext { opened with pending := [.drive cmdRsvd3 emptyBlock] } ∧
    resetNext { opened with pending := [.reset] } = true := by
  simp [accepts, faultsNext, resetNext, sampledCmd, opened, cmdNop]

/-- HaltHoldsFault, OnlyResetLeavesFault: a core in FAULT, without and with a reset to come. -/
theorem witness_in_fault :
    ({ closed with phase := .fault, fcode := 4 } : State).phase = .fault ∧
    resetNext { closed with phase := .fault, fcode := 4 } = false ∧
    noReset 3 { closed with phase := .fault, fcode := 4, pending := List.replicate 3 (.drive cmdInit emptyBlock) } ∧
    ({ closed with phase := .fault, fcode := 4, pending := [HostEvent.reset] } : State).pending = .reset :: [] := by
  refine ⟨rfl, rfl, ?_, rfl⟩
  intro e he
  have h := List.eq_of_mem_replicate (List.mem_of_mem_take he)
  simp [h]

/-- OnlyResetLeavesFault, second clause: a step that leaves FAULT. -/
theorem witness_leaves_fault :
    after (step { closed with phase := .fault, fcode := 4, pending := [.reset] }) (fun s => s.phase) = some .idle := by
  decide

/-- PortsIgnoredWhileBusy, both cases: a busy core, and an idle one with a command that is not BLOCK. -/
theorem witness_ports_ignored :
    ready { opened with phase := .ldreg } = false ∧
    (after (stepWith cmdRsvd3 emptyBlock { opened with phase := .ldreg }) (fun s => s.phase)) = some .round ∧
    cmdInit ≠ cmdBlock ∧ (after (stepWith cmdInit emptyBlock opened) (fun s => s.phase)) = some .idle := by decide

/-- UnstatedValuesStayHidden: two different states that agree on what holds a value. -/
theorem witness_same_defined :
    Inv closed ∧ SameDefined closed { closed with hs := Vector.replicate 8 1, wr := Vector.replicate 8 2 } ∧
    closed ≠ { closed with hs := Vector.replicate 8 1, wr := Vector.replicate 8 2 } := by
  refine ⟨?_, ?_, by decide⟩
  · constructor <;> simp [opened, closed, busy]
  · constructor <;> simp [opened, closed]

/-- RoundStepsComputeCompress, BlockReachesReady: a busy core whose host applies no reset. -/
theorem witness_busy :
    Inv { opened with phase := .ldreg } ∧ busy { opened with phase := .ldreg } ∧
    noReset 65 { opened with phase := .ldreg } ∧ noReset 114 { opened with phase := .ldreg } := by
  refine ⟨?_, by simp [busy], by simp [noReset, opened], by simp [noReset, opened]⟩
  constructor <;> simp [opened, busy]

/-- WaitEndsReadyOrFault, second clause. -/
theorem witness_ready : ready opened = true := by decide

/-- ExpandDerivesSchedule, CompressRunsRounds, PreconditionsChecked: both lengths (F13). -/
theorem witness_lengths :
    emptyBlock.toList.length = 64 ∧ (List.replicate 63 (0 : Byte)).length ≠ 64 ∧
    romK.toList.length = 64 ∧ (List.replicate 65 (0 : Word)).length ≠ 64 := by decide

/-- HashTraceComputesHash, PadAppends, PadProperties, HashTotalOnSupported, WindowsCoverPadding: the empty message. -/
theorem witness_supported :
    Inv opened ∧ opened.phase = .idle ∧ ([] : List Byte).length < 2 ^ 61 ∧ pad [] = .ok emptyBlock.toList := by
  exact ⟨opened_inv, rfl, by decide, by decide⟩

/-- SessionReadsEveryDigest, LawfulHostNeverFaults: two messages. -/
theorem witness_session : ∀ m ∈ ([[], [0x61]] : List (List Byte)), m.length < 2 ^ 61 := by decide

/-- SessionReadsEveryDigest, the clause of step 3: a core in FAULT under a host that has begun a message. -/
theorem witness_failed_run :
    ({ closed with phase := .fault, fcode := 4 } : State).phase = .fault ∧
    ({ HostWork.start [[]] with begun := some [] } : HostWork).begun.toList ≠ [] := by decide

/-- LawfulHostNeverFaults: a choice of moves with a reset, and a core whose moves to come are a lawful host's. -/
theorem witness_lawful :
    let s := { opened with pending := [HostEvent.reset, .drive cmdInit emptyBlock, .drive cmdBlock emptyBlock] }
    Inv s ∧ s.phase ≠ .fault ∧ keepsDuties s ∧
    HostAct.reset ∈ [HostAct.reset, .request emptyBlock, .request emptyBlock] := by
  refine ⟨?_, by decide, ⟨[[]], [.reset, .request emptyBlock, .request emptyBlock], by decide⟩, by decide⟩
  constructor <;> simp [opened, busy]

/-- PadAppends, SessionReadsEveryDigest, the refusal: a message of 2^61 bytes (P7). -/
theorem witness_unsupported : 2 ^ 61 ≤ (List.replicate (2 ^ 61) (0 : Byte)).length := by
  rw [List.length_replicate]

/-- PadProperties, the tabled case of 55 bytes: the hypotheses met by a message of that length. -/
theorem witness_pad_55 : (List.replicate 55 (0x61 : Byte)).length = 55 ∧
    ∃ p, pad (List.replicate 55 (0x61 : Byte)) = .ok p := by
  exact ⟨by decide, _, rfl⟩

/-- LengthFieldBigEndian: the last window of the padded empty message, and its schedule. -/
theorem witness_last_window :
    pad [] = .ok emptyBlock.toList ∧ (windows emptyBlock.toList).getLast? = some emptyBlock.toList ∧
    (∃ w, expand emptyBlock.toList = .ok w) ∧ 32 < 2 ^ 64 := by
  exact ⟨by decide, by decide, ⟨_, rfl⟩, by decide⟩

/-- MessageTakesItsSteps: the moves of the empty message. -/
theorem witness_message :
    pad [] = .ok emptyBlock.toList ∧ (windows emptyBlock.toList).mapM listBlock = .ok [emptyBlock] ∧
    ({ opened with pending := messageEvents [emptyBlock] } : State).pending = messageEvents [emptyBlock] ∧
    Inv { opened with pending := messageEvents [emptyBlock] } := by
  refine ⟨by decide, by decide, rfl, ?_⟩
  constructor <;> simp [opened, busy]

/-- DecodeInvertsEncode, DecodeTableIsTotal: words in each case of the phase field. -/
theorem witness_decode_fields :
    decode 0b11111#5 = .ok (.halt 0b11#2) ∧ phaseField 0b11111#5 = 0b111#3 ∧
    phaseField 0b00010#5 = 0b000#3 ∧ cmdField 0b00010#5 = 0b10#2 ∧ phaseField 0b10101#5 = 0b101#3 := by decide

/-- HexWritesEveryNibble: a character of a rendering. -/
theorem witness_hex_char : '0' ∈ hex (Vector.replicate 32 0) ∧ hex (Vector.replicate 32 0) = hex (Vector.replicate 32 0) := by
  decide

/-- TraceLinesReadBack: well-formed lines; an item with an encoding other than NOP's, before a ready core. -/
theorem witness_trace_line : (TraceLine.item (.nop 1)).wellFormed = true ∧ (TraceLine.hash []).wellFormed = true ∧
    itemEncoding (.block emptyBlock) = some (cmdBlock, emptyBlock.toList) ∧ cmdBlock ≠ cmdNop ∧
    itemEncoding .rsvd3 = some (cmdRsvd3, []) ∧ cmdRsvd3 ≠ cmdNop ∧ ready opened = true := by
  decide

/-- CoresAreIsolated: two cores. -/
theorem witness_two_cores :
    (1 : Nat) ≠ 0 ∧ (⟨[opened, closed]⟩ : Platform).cores[0]? = some opened ∧ step opened = .next opened := by
  exact ⟨by decide, rfl, rfl⟩

end Sys2Proof.Tests
end

section
/-! The sequencer position, the two flags and the fault code: what one step of the machine writes (10_state.md R29,
R30, R31). `StepEffect` says once which transition a step takes and from which states; the three tables are read off
its cases. -/

namespace Sys2Proof.Proofs
open Sys2Proof.Machine Sys2Proof.Laws

/-! ### The command codes -/

/-- The four command codes are all of them. -/
theorem cmdCode_cases (c : CmdCode) : c = cmdNop ∨ c = cmdInit ∨ c = cmdBlock ∨ c = cmdRsvd3 := by
  revert c; decide

@[simp] theorem cmdCodes_distinct :
    cmdNop ≠ cmdInit ∧ cmdNop ≠ cmdBlock ∧ cmdNop ≠ cmdRsvd3 ∧ cmdInit ≠ cmdNop ∧ cmdInit ≠ cmdBlock ∧
    cmdInit ≠ cmdRsvd3 ∧ cmdBlock ≠ cmdNop ∧ cmdBlock ≠ cmdInit ∧ cmdBlock ≠ cmdRsvd3 ∧ cmdRsvd3 ≠ cmdNop ∧
    cmdRsvd3 ≠ cmdInit ∧ cmdRsvd3 ≠ cmdBlock := by decide

/-! ### What one step does -/

/-- The state an operation runs on: the host's move taken, its command on the port, and the block port at `b`. -/
abbrev sampledState (b : Block) (s : State) : State :=
  drivePorts (sampledCmd s) b { s with pending := s.pending.tail }

/-- Every transition of the machine with the condition that selects it: the reset event, the commands of IDLE (BLOCK
with `open` = 1 and with `open` = 0), and the operation of each other phase. -/
inductive StepEffect (s : State) : State → Prop where
  | reset (hr : resetNext s = true) : StepEffect s (resetEvent { s with pending := s.pending.tail })
  | nop (b : Block) (ha : accepts cmdNop s) : StepEffect s (sampledState b s)
  | init (b : Block) (ha : accepts cmdInit s) :
      StepEffect s (setPc .idle 0 (flagsInit (writeHs romIV (sampledState b s))))
  | blockOpen (b : Block) (ha : accepts cmdBlock s) (ho : s.isOpen = true) :
      StepEffect s (setPc .sched 16 (flagsBlock (ldblk (sampledState b s))))
  | blockClosed (b : Block) (ha : accepts cmdBlock s) (ho : s.isOpen = false) :
      StepEffect s (raise .blockBeforeInit (sampledState b s))
  | rsvd3 (b : Block) (ha : accepts cmdRsvd3 s) : StepEffect s (raise .reservedCmd (sampledState b s))
  | sched (b : Block) (hr : resetNext s = false) (hp : s.phase = .sched) (ht : 16 ≤ s.t.toNat) :
      StepEffect s (advance .sched .ldreg
        (writeW (s.w.set (indexOf s.t) (schedEntry s.w (indexOf s.t))) (sampledState b s)))
  | ldreg (b : Block) (hr : resetNext s = false) (hp : s.phase = .ldreg) :
      StepEffect s (setPc .round 0 (writeWr s.hs (sampledState b s)))
  | round (b : Block) (hr : resetNext s = false) (hp : s.phase = .round) :
      StepEffect s (advance .round .feed
        (writeWr (roundRegs s.wr romK[indexOf s.t] s.w[indexOf s.t]) (sampledState b s)))
  | feed (b : Block) (hr : resetNext s = false) (hp : s.phase = .feed) :
      StepEffect s (setPc .idle 0 (flagsFeed (writeHs (feedForward s.hs s.wr) (sampledState b s))))
  | halt (b : Block) (hr : resetNext s = false) (hp : s.phase = .fault) : StepEffect s (sampledState b s)

/-- In IDLE the sampled command selects among the four operations, and `open` between the two effects of BLOCK. -/
theorem stepEffect_of_exec_idle {s u : State} {b : Block} (hr : resetNext s = false) (hp : s.phase = .idle)
    (h : exec (selected .idle (sampledCmd s)) (sampledState b s) = .next u) : StepEffect s u := by
  have ha {c : CmdCode} (hc : sampledCmd s = c) : accepts c s := ⟨hr, hp, hc⟩
  obtain hc | hc | hc | hc := cmdCode_cases (sampledCmd s)
  · have hi : selected .idle (sampledCmd s) = .nop := by rw [hc]; decide
    cases hi ▸ h; exact .nop b (ha hc)
  · have hi : selected .idle (sampledCmd s) = .init := by rw [hc]; decide
    cases hi ▸ h; exact .init b (ha hc)
  · have hi : selected .idle (sampledCmd s) = .block := by rw [hc]; decide
    rw [hi] at h
    cases ho : s.isOpen with
    | true => rw [exec_block_open (s := sampledState b s) ho] at h; cases h; exact .blockOpen b (ha hc) ho
    | false => rw [exec_block_closed (s := sampledState b s) ho] at h; cases h; exact .blockClosed b (ha hc) ho
  · have hi : selected .idle (sampledCmd s) = .rsvd3 := by rw [hc]; decide
    cases hi ▸ h; exact .rsvd3 b (ha hc)

/-- A SCHED step that answers a next state has an index of 16 or more. -/
theorem stepEffect_of_exec_sched {s u : State} {b : Block} {cc : CmdCode} (hr : resetNext s = false)
    (hp : s.phase = .sched) (h : exec (.sched cc) (sampledState b s) = .next u) : StepEffect s u := by
  by_cases ht : 16 ≤ s.t.toNat
  · rw [exec_sched (s := sampledState b s) cc ht] at h; cases h; exact .sched b hr hp ht
  · rw [exec_sched_stops (s := sampledState b s) cc (Nat.lt_of_not_le ht)] at h; cases h

/-- Whatever a step answers, one of the transitions of `StepEffect` gives it. -/
theorem stepEffect_of_step {s u : State} (h : step s = .next u) : StepEffect s u := by
  obtain ⟨es, hes, hs⟩ | ⟨b, hr, hs⟩ := step_cases s
  · have hu := StepEffect.reset (s := s) (by simp [resetNext, hes])
    rw [hs] at h; cases h
    simpa only [hes, List.tail_cons] using hu
  change step s = exec (selected s.phase (sampledCmd s)) (sampledState b s) at hs
  rw [hs] at h
  cases hp : s.phase <;> rw [hp] at h
  case idle => exact stepEffect_of_exec_idle hr hp h
  case sched => exact stepEffect_of_exec_sched hr hp h
  case ldreg => cases h; exact .ldreg b hr hp
  case round => cases h; exact .round b hr hp
  case feed => cases h; exact .feed b hr hp
  case fault => cases h; exact .halt b hr hp

/-! ### Fields after LDBLK and after a step of a counted loop -/

@[simp] theorem ldblk_isOpen (s : State) : (ldblk s).isOpen = s.isOpen := by rw [ldblk, writeW_isOpen]
@[simp] theorem ldblk_fcode (s : State) : (ldblk s).fcode = s.fcode := by rw [ldblk, writeW_fcode]

@[simp] theorem faultCodeOut_eq_fcode (s : State) : faultCodeOut s = s.fcode := rfl

/-- The counted loops of SCHED and ROUND: one index further below 63, without wrapping, and after 63 on to the next
phase (R29). -/
theorem advance_position (here after : Phase) (s : State) :
    (s.t.toNat ≤ 62 → (advance here after s).phase = here ∧ (advance here after s).t.toNat = s.t.toNat + 1) ∧
    (s.t = 63 → (advance here after s).phase = after ∧ (advance here after s).t = 0) := by
  refine ⟨fun ht => ?_, fun ht => by rw [advance_of_last _ _ ht]; exact ⟨rfl, rfl⟩⟩
  have hne : s.t ≠ 63 := fun e => by simp [e] at ht
  rw [advance_of_not_last _ _ hne]
  exact ⟨rfl, (toNat_succ_of_not_last hne).1⟩

/-! ### The three tables -/

/-- Settles O30: the row of each transition. IDLE and FAULT keep the index, which the invariants hold at 0; the loops of
SCHED and ROUND are `advance_position`. -/
theorem positionTable : Obligations.PositionTable := by
  intro s u hI h
  cases stepEffect_of_step h with
  | reset hr => simp [accepts, hr]
  | nop b ha =>
    obtain ⟨hr, hp, hc⟩ := ha
    have ht : s.t = 0 := hI.zeroIndex (by simp [hp]) (by simp [hp])
    simp [accepts, hr, hp, hc, ht]
  | init b ha | rsvd3 b ha =>
    obtain ⟨hr, hp, hc⟩ := ha
    simp [accepts, hr, hp, hc]
  | blockOpen b ha ho | blockClosed b ha ho =>
    obtain ⟨hr, hp, hc⟩ := ha
    simp [accepts, hr, hp, hc, ho]
  | sched b hr hp ht =>
    simpa [accepts, hr, hp, -advance_phase, -advance_t] using
      advance_position .sched .ldreg (writeW _ (sampledState b s))
  | round b hr hp =>
    simpa [accepts, hr, hp, -advance_phase, -advance_t] using
      advance_position .round .feed (writeWr _ (sampledState b s))
  | ldreg b hr hp | feed b hr hp => simp [accepts, hr, hp]
  | halt b hr hp =>
    have ht : s.t = 0 := hI.zeroIndex (by simp [hp]) (by simp [hp])
    simp [accepts, hr, hp, ht]

/-- Settles O31: the flags each transition writes. Of the operations outside IDLE only FEED writes one. -/
theorem flagTable : Obligations.FlagTable := by
  intro s u h
  cases stepEffect_of_step h with
  | reset hr => simp [accepts, faultsNext, hr]
  | nop b ha | init b ha | rsvd3 b ha =>
    obtain ⟨hr, hp, hc⟩ := ha
    simp [accepts, faultsNext, hr, hp, hc]
  | blockOpen b ha ho | blockClosed b ha ho =>
    obtain ⟨hr, hp, hc⟩ := ha
    simp [accepts, faultsNext, hr, hp, hc, ho]
  | sched b hr hp | ldreg b hr hp | round b hr hp | feed b hr hp | halt b hr hp =>
    simp [accepts, faultsNext, hr, hp]

/-- Settles O32: `raise` writes the code of its cause, the reset event writes 0, and no other transition writes
`fcode`. -/
theorem faultCodeWriters : Obligations.FaultCodeWriters := by
  intro s u h
  cases stepEffect_of_step h with
  | reset hr => simp [accepts, hr]
  | nop b ha | init b ha | rsvd3 b ha =>
    obtain ⟨hr, hp, hc⟩ := ha
    simp [accepts, faultsNext, hr, hp, hc, faultCode]
  | blockOpen b ha ho | blockClosed b ha ho =>
    obtain ⟨hr, hp, hc⟩ := ha
    simp [accepts, faultsNext, hr, hp, hc, ho, faultCode]
  | sched b hr hp | ldreg b hr hp | round b hr hp | feed b hr hp | halt b hr hp =>
    simp [accepts, hr, hp]

end Sys2Proof.Proofs
end

section
/-! Byte order (20_memory.md R52, R53, R56): `be32` and `bytes_be32` by slices of a vector, and the bytes of a port's
vector as base-256 digits of its number. -/

namespace Sys2Proof.Proofs
open Sys2Proof.Machine

/-! ### `be32` and `bytes_be32` -/

/-- Side by side, the number of the upper part counts in units above the lower part. -/
theorem toNat_append_eq_mul_add {m n : Nat} (x : BitVec m) (y : BitVec n) :
    (x ++ y).toNat = x.toNat * 2 ^ n + y.toNat := by
  rw [BitVec.toNat_append, ← Nat.shiftLeft_add_eq_or_of_lt y.isLt, Nat.shiftLeft_eq]

theorem be32_toNat (b0 b1 b2 b3 : Byte) :
    (be32 b0 b1 b2 b3).toNat = b0.toNat * 2 ^ 24 + b1.toNat * 2 ^ 16 + b2.toNat * 2 ^ 8 + b3.toNat := by
  simp only [be32, toNat_append_eq_mul_add]
  omega

theorem bytesBe32_eq (w : Word) :
    bytesBe32 w = #v[w.extractLsb' 24 8, w.extractLsb' 16 8, w.extractLsb' 8 8, w.extractLsb' 0 8] := rfl

/-- Four adjacent byte slices of a vector, the uppermost first, are the word slice they cover: no bytes are swapped. -/
theorem be32_extractLsb' {n : Nat} (v : BitVec n) (i : Nat) :
    be32 (v.extractLsb' (i + 24) 8) (v.extractLsb' (i + 16) 8) (v.extractLsb' (i + 8) 8) (v.extractLsb' i 8) =
      v.extractLsb' i 32 := by
  rw [be32, BitVec.extractLsb'_append_extractLsb'_eq_extractLsb' (by omega),
    BitVec.extractLsb'_append_extractLsb'_eq_extractLsb' (by omega),
    BitVec.extractLsb'_append_extractLsb'_eq_extractLsb' rfl]

theorem be32_bytesBe32 (w : Word) :
    be32 (bytesBe32 w)[0] (bytesBe32 w)[1] (bytesBe32 w)[2] (bytesBe32 w)[3] = w := by
  rw [bytesBe32_eq]
  exact (be32_extractLsb' w 0).trans BitVec.extractLsb'_eq_self

/-- Each slice of the concatenation lies in one of the bytes and is the whole of it. -/
theorem bytesBe32_be32 (b0 b1 b2 b3 : Byte) : bytesBe32 (be32 b0 b1 b2 b3) = #v[b0, b1, b2, b3] := by
  have h3 : (be32 b0 b1 b2 b3).extractLsb' 0 8 = b3 := BitVec.extractLsb'_append_eq_right
  have h2 : (be32 b0 b1 b2 b3).extractLsb' 8 8 = b2 :=
    (BitVec.extractLsb'_append_eq_of_le (by decide)).trans BitVec.extractLsb'_append_eq_right
  have h1 : (be32 b0 b1 b2 b3).extractLsb' 16 8 = b1 :=
    (BitVec.extractLsb'_append_eq_of_le (by decide)).trans <|
      (BitVec.extractLsb'_append_eq_of_le (by decide)).trans BitVec.extractLsb'_append_eq_right
  have h0 : (be32 b0 b1 b2 b3).extractLsb' 24 8 = b0 :=
    (BitVec.extractLsb'_append_eq_of_le (by decide)).trans <|
      (BitVec.extractLsb'_append_eq_of_le (by decide)).trans BitVec.extractLsb'_append_eq_left
  rw [bytesBe32_eq, h0, h1, h2, h3]

/-- Settles O12: by value from `be32_toNat`, the round trips by slices. -/
theorem bigEndianRoundTrip : Obligations.BigEndianRoundTrip :=
  ⟨be32_toNat, bytesBe32_eq, bytesBe32_be32, be32_bytesBe32, by decide, by decide⟩

/-! ### Bytes of a port's vector -/

/-- The number bytes write has them as its base-256 digits, the last byte the lowest digit. -/
theorem bytesValue_eq_ofDigits (l : List Byte) :
    bytesValue l = Nat.ofDigits 256 (l.reverse.map BitVec.toNat) := by
  simp [bytesValue, Nat.ofDigits_eq_foldr, List.foldl_map, add_comm]

theorem toNat_digits_lt (l : List Byte) : ∀ d ∈ l.map BitVec.toNat, d < 256 := by
  simp only [List.forall_mem_map]
  exact fun b _ => b.isLt

theorem bytesValue_lt (l : List Byte) : bytesValue l < 256 ^ l.length := by
  simpa [bytesValue_eq_ofDigits] using
    Nat.ofDigits_lt_base_pow_length (by decide) (toNat_digits_lt l.reverse)

/-- Dividing drops the digits below a byte, and the remainder modulo 256 is the lowest digit left. -/
theorem bytesValue_div_pow_mod {l : List Byte} {k : Nat} (hk : k < l.length) :
    bytesValue l / 256 ^ (l.length - 1 - k) % 256 = l[k].toNat := by
  have hi : l.length - 1 - k < (l.reverse.map BitVec.toNat).length := by simp; omega
  have hd : (l.reverse.map BitVec.toNat)[l.length - 1 - k] = l[k].toNat := by
    simp [show l.length - 1 - (l.length - 1 - k) = k by omega]
  rw [bytesValue_eq_ofDigits, Nat.ofDigits_div_pow_eq_ofDigits_drop _ (by decide) _ (toNat_digits_lt _),
    List.drop_eq_getElem_cons hi, hd, Nat.ofDigits_cons, Nat.add_mul_mod_self_left, Nat.mod_eq_of_lt l[k].isLt]

/-- In a vector wide enough for the bytes, byte `k` is the 8-bit slice above the bytes after it (R53, R56). -/
theorem extractLsb'_ofNat_bytesValue {n : Nat} {l : List Byte} (hn : 8 * l.length ≤ n) {k : Nat} (hk : k < l.length) :
    (BitVec.ofNat n (bytesValue l)).extractLsb' (8 * (l.length - 1 - k)) 8 = l[k] := by
  have hlt : bytesValue l < 2 ^ n := calc
    bytesValue l < 256 ^ l.length := bytesValue_lt l
    _ = 2 ^ (8 * l.length) := (pow_mul 2 8 l.length).symm
    _ ≤ 2 ^ n := Nat.pow_le_pow_right (by decide) hn
  apply BitVec.eq_of_toNat_eq
  rw [BitVec.extractLsb'_toNat, BitVec.toNat_ofNat, Nat.mod_eq_of_lt hlt, Nat.shiftRight_eq_div_pow, pow_mul]
  exact bytesValue_div_pow_mod hk

theorem blockVector_extractLsb'_byte (b : Block) {k : Nat} (hk : k < 64) :
    (blockVector b).extractLsb' (504 - 8 * k) 8 = b[k] := by
  have h := extractLsb'_ofNat_bytesValue (n := 512) (l := b.toList) (by simp) (k := k) (by simpa using hk)
  have hs : 8 * (b.toList.length - 1 - k) = 504 - 8 * k := by simp; omega
  rw [hs] at h
  simpa [blockVector] using h

/-- A word of the block is four adjacent byte slices of the vector. -/
theorem blockVector_extractLsb'_word (b : Block) (j : Fin 16) :
    (blockVector b).extractLsb' (480 - 32 * j.val) 32 = blockWord b j := by
  have e0 : 480 - 32 * j.val + 24 = 504 - 8 * (4 * j.val) := by omega
  have e1 : 480 - 32 * j.val + 16 = 504 - 8 * (4 * j.val + 1) := by omega
  have e2 : 480 - 32 * j.val + 8 = 504 - 8 * (4 * j.val + 2) := by omega
  have e3 : 480 - 32 * j.val = 504 - 8 * (4 * j.val + 3) := by omega
  rw [← be32_extractLsb', e0, e1, e2, e3]
  simp (disch := omega) only [blockVector_extractLsb'_byte, blockWord]

/-- Settles O13: the byte slices are the digits of the vector's number, and a word slice is four of them. -/
theorem blockPortSlices : Obligations.BlockPortSlices := fun b =>
  ⟨fun k => blockVector_extractLsb'_byte b k.isLt, fun _ => rfl, blockVector_extractLsb'_word b⟩

end Sys2Proof.Proofs
end

section
/-! The combinational primitives (40_primitives.md R90 to R95) and the mixing functions made of them (R98 to R101).
Each word function gets one rule for a bit of its result; equations between words and the mixing functions are then
read off bit by bit. -/

namespace Sys2Proof.Proofs
open Sys2Proof.Machine

/-! ### Bits of AND, XOR, NOT, SHR and ROTR -/

@[simp] theorem getLsbD_and32 (x y : Word) (i : Nat) : (and32 x y).getLsbD i = (x.getLsbD i && y.getLsbD i) :=
  BitVec.getLsbD_and

@[simp] theorem getLsbD_xor32 (x y : Word) (i : Nat) : (xor32 x y).getLsbD i = (x.getLsbD i ^^ y.getLsbD i) :=
  BitVec.getLsbD_xor

@[simp] theorem getLsbD_not32 (x : Word) {i : Nat} (hi : i < 32) : (not32 x).getLsbD i = !x.getLsbD i := by
  simp only [not32, BitVec.getLsbD_not, hi, decide_true, Bool.true_and]

/-- Bits from index 32 on are read as 0, which is the zero that enters at the top (R92). -/
@[simp] theorem getLsbD_shr (x : Word) (n i : Nat) :
    (shr x n).getLsbD i = (decide (i + n < 32) && x.getLsbD (i + n)) := by
  rw [shr, BitVec.getLsbD_ushiftRight, Nat.add_comm n i]
  by_cases h : i + n < 32
  · simp only [h, decide_true, Bool.true_and]
  · simp only [h, decide_false, Bool.false_and, BitVec.getLsbD_of_ge x _ (Nat.le_of_not_lt h)]

/-- The library's two ranges of a rotation, the one that shifts down and the one that comes round, are one index modulo
32 (R91). -/
@[simp] theorem getLsbD_rotr (x : Word) (n : Nat) {i : Nat} (hi : i < 32) :
    (rotr x n).getLsbD i = x.getLsbD ((i + n) % 32) := by
  rw [rotr, BitVec.getLsbD_rotateRight]
  by_cases h : i < 32 - n % 32
  · have e : n % 32 + i = (i + n) % 32 := by omega
    simp only [h, decide_true, cond_true, e]
  · have e : i - (32 - n % 32) = (i + n) % 32 := by omega
    simp only [h, hi, decide_false, decide_true, cond_false, Bool.true_and, e]

/-! ### ADD32 (R90) -/

/-- Settles O6: `add32` is the ring addition of words. -/
theorem add32WrapsModulo : Obligations.Add32WrapsModulo :=
  ⟨BitVec.toNat_add, BitVec.add_comm, BitVec.add_assoc, fun x => BitVec.add_zero x, by decide⟩

/-! ### ROTR (R91) -/

theorem rotr_eq_shr_or_shl (x : Word) {n : Nat} (hn : n < 32) : rotr x n = (x >>> n ||| x <<< (32 - n)) := by
  rw [rotr, BitVec.rotateRight_def, Nat.mod_eq_of_lt hn]

theorem rotr_mod (x : Word) (n : Nat) : rotr x n = rotr x (n % 32) :=
  BitVec.rotateRight_mod_eq_rotateRight.symm

theorem rotr_zero (x : Word) : rotr x 0 = x :=
  BitVec.eq_of_getLsbD_eq fun i hi => by rw [getLsbD_rotr x 0 hi, Nat.add_zero, Nat.mod_eq_of_lt hi]

/-- A word whose bits all have one value is the same word after every rotation. -/
theorem rotr_eq_self_of_bits_eq {x : Word} {b : Bool} (hx : ∀ i < 32, x.getLsbD i = b) (n : Nat) : rotr x n = x :=
  BitVec.eq_of_getLsbD_eq fun i hi => by
    rw [getLsbD_rotr x n hi, hx i hi, hx _ (Nat.mod_lt _ (by decide))]

/-- Settles O7: the bit rule `getLsbD_rotr`, from which the words all of whose bits are equal are fixed. -/
theorem rotrMovesEveryBit : Obligations.RotrMovesEveryBit :=
  ⟨fun x n _ => getLsbD_rotr x n, fun x _ _ => rotr_eq_shr_or_shl x, rotr_zero, rotr_mod,
    rotr_eq_self_of_bits_eq (b := false) (by decide), rotr_eq_self_of_bits_eq (b := true) (by decide), by decide⟩

/-! ### SHR (R92) -/

theorem toNat_shr (x : Word) (n : Nat) : (shr x n).toNat = x.toNat / 2 ^ n := by
  rw [shr, BitVec.toNat_ushiftRight, Nat.shiftRight_eq_div_pow]

theorem getLsbD_shr_eq_ite (x : Word) (n i : Nat) :
    (shr x n).getLsbD i = if i + n ≤ 31 then x.getLsbD (i + n) else false := by
  rw [getLsbD_shr]
  by_cases h : i + n < 32
  · simp only [h, decide_true, Bool.true_and, if_pos (Nat.le_of_lt_succ h)]
  · simp only [h, decide_false, Bool.false_and, if_neg (mt Nat.lt_succ_of_le h)]

theorem shr_eq_zero_of_le (x : Word) {n : Nat} (hn : 32 ≤ n) : shr x n = 0 :=
  BitVec.ushiftRight_eq_zero hn

/-- Settles O8: by value from `toNat_shr`, by bit from `getLsbD_shr`. -/
theorem shrIsLogical : Obligations.ShrIsLogical :=
  ⟨fun x n _ => toNat_shr x n, fun x n i _ => getLsbD_shr_eq_ite x n i, fun x _ => shr_eq_zero_of_le x, by decide⟩

/-! ### AND, XOR, NOT (R93 to R95) -/

theorem not32_eq_sub (x : Word) : not32 x = 0xffffffff - x :=
  (BitVec.allOnes_sub_eq_not x).symm

theorem not32_eq_xor32 (x : Word) : not32 x = xor32 x 0xffffffff :=
  BitVec.xor_allOnes.symm

/-- Settles O9: the bit rules, and the all-ones word as what NOT subtracts from or differs by. -/
theorem bitwisePrimitives : Obligations.BitwisePrimitives :=
  ⟨fun x y i _ => getLsbD_and32 x y i, fun x y i _ => getLsbD_xor32 x y i, fun x _ => getLsbD_not32 x,
    not32_eq_sub, not32_eq_xor32, by decide⟩

/-! ### The mixing functions (R98 to R101) -/

theorem getLsbD_bsig0 (x : Word) {i : Nat} (hi : i < 32) :
    (bsig0 x).getLsbD i =
      (x.getLsbD ((i + 2) % 32) ^^ x.getLsbD ((i + 13) % 32) ^^ x.getLsbD ((i + 22) % 32)) := by
  simp only [bsig0, getLsbD_xor32, getLsbD_rotr x _ hi]

theorem getLsbD_bsig1 (x : Word) {i : Nat} (hi : i < 32) :
    (bsig1 x).getLsbD i =
      (x.getLsbD ((i + 6) % 32) ^^ x.getLsbD ((i + 11) % 32) ^^ x.getLsbD ((i + 25) % 32)) := by
  simp only [bsig1, getLsbD_xor32, getLsbD_rotr x _ hi]

theorem getLsbD_ssig0 (x : Word) {i : Nat} (hi : i < 32) :
    (ssig0 x).getLsbD i =
      (x.getLsbD ((i + 7) % 32) ^^ x.getLsbD ((i + 18) % 32) ^^ (decide (i + 3 < 32) && x.getLsbD (i + 3))) := by
  simp only [ssig0, getLsbD_xor32, getLsbD_rotr x _ hi, getLsbD_shr]

theorem getLsbD_ssig1 (x : Word) {i : Nat} (hi : i < 32) :
    (ssig1 x).getLsbD i =
      (x.getLsbD ((i + 17) % 32) ^^ x.getLsbD ((i + 19) % 32) ^^ (decide (i + 10 < 32) && x.getLsbD (i + 10))) := by
  simp only [ssig1, getLsbD_xor32, getLsbD_rotr x _ hi, getLsbD_shr]

/-- Settles O11: the rules of XOR, ROTR and SHR for one bit, composed; the rules' examples are evaluated. -/
theorem mixingFunctionsBitwise : Obligations.MixingFunctionsBitwise :=
  ⟨fun x _ hi => ⟨getLsbD_bsig0 x hi, getLsbD_bsig1 x hi, getLsbD_ssig0 x hi, getLsbD_ssig1 x hi⟩, by decide⟩

end Sys2Proof.Proofs
end

section
/-! The host's padding and blocking (41_padder_host.md R110 to R112, R114): what `pad` answers, the eight bytes of the
bit length and the words they land in, the windows of a padded message and the blocks presented for them. -/

namespace Sys2Proof.Proofs
open Sys2Proof.Machine Sys2Proof.Laws

/-! ### What `pad` answers -/

theorem zeroCount_lt (l : Nat) : zeroCount l < 64 := by
  unfold zeroCount
  omega

/-- The mathematical mod brings the length to 56 modulo 64, so that eight more bytes end a block (R110). -/
theorem zeroCount_mod (l : Nat) : (l + 1 + zeroCount l) % 64 = 56 := by
  unfold zeroCount
  omega

theorem pad_of_supported {m : List Byte} (h : m.length < 2 ^ 61) :
    pad m = .ok (m ++ [0x80#8] ++ List.replicate (zeroCount m.length) 0x00#8 ++ len64Be (8 * m.length)) :=
  if_neg (Nat.not_le.mpr h)

theorem pad_of_large {m : List Byte} (h : 2 ^ 61 ≤ m.length) : pad m = .error .unsupportedInput :=
  if_pos h

theorem pad_eq_ok_iff {m p : List Byte} : pad m = .ok p ↔ m.length < 2 ^ 61 ∧
    p = m ++ [0x80#8] ++ List.replicate (zeroCount m.length) 0x00#8 ++ len64Be (8 * m.length) := by
  rcases Nat.lt_or_ge m.length (2 ^ 61) with h | h
  · rw [pad_of_supported h, Except.ok.injEq, eq_comm]
    exact (and_iff_right h).symm
  · rw [pad_of_large h]
    exact iff_of_false nofun fun hm => Nat.not_lt.mpr h hm.1

/-- Every function of the host that pads its message first hands on the error of `pad` (R112). -/
theorem hashItems_of_large {m : List Byte} (h : 2 ^ 61 ≤ m.length) : hashItems m = .error .unsupportedInput := by
  rw [hashItems, messageBlocks_of_large h]
  rfl

theorem hashMessage_of_large {m : List Byte} (h : 2 ^ 61 ≤ m.length) :
    hashMessage m = .error .unsupportedInput := by
  rw [hashMessage, pad_of_large h]
  rfl

/-- Settles O52: below 2^61 bytes by the number of zeros, from there on by the refusal of `pad`. -/
theorem padAppends : Obligations.PadAppends :=
  ⟨fun m h => ⟨zeroCount m.length, zeroCount_lt _, zeroCount_mod _, pad_of_supported h⟩, fun l => by omega,
    fun _ h => ⟨pad_of_large h, hashItems_of_large h, hashMessage_of_large h⟩⟩

/-! ### The length field -/

@[simp] theorem len64Be_length (n : Nat) : (len64Be n).length = 8 := by
  simp [len64Be]

/-- The number of eight bytes by the two words they make. -/
theorem bytesValue_eight (b0 b1 b2 b3 b4 b5 b6 b7 : Byte) :
    bytesValue [b0, b1, b2, b3, b4, b5, b6, b7] =
      2 ^ 32 * (be32 b0 b1 b2 b3).toNat + (be32 b4 b5 b6 b7).toNat := by
  simp only [bytesValue, List.foldl_cons, List.foldl_nil, be32_toNat]
  omega

/-- The eight bytes of the length field make the high and the low half of the number (R111). -/
theorem len64Be_halves {n : Nat} (hn : n < 2 ^ 64) : ∃ b0 b1 b2 b3 b4 b5 b6 b7 : Byte,
    len64Be n = [b0, b1, b2, b3, b4, b5, b6, b7] ∧
    (be32 b0 b1 b2 b3).toNat = n / 2 ^ 32 ∧ (be32 b4 b5 b6 b7).toNat = n % 2 ^ 32 := by
  refine ⟨_, _, _, _, _, _, _, _, rfl, ?_, ?_⟩
  · have high := be32_extractLsb' (BitVec.ofNat 64 n) 32
    rw [high, BitVec.extractLsb'_toNat, BitVec.toNat_ofNat, Nat.shiftRight_eq_div_pow]
    omega
  · have low := be32_extractLsb' (BitVec.ofNat 64 n) 0
    rw [low, BitVec.extractLsb'_toNat, BitVec.toNat_ofNat, Nat.shiftRight_zero]
    omega

theorem bytesValue_len64Be {n : Nat} (hn : n < 2 ^ 64) : bytesValue (len64Be n) = n := by
  obtain ⟨b0, b1, b2, b3, b4, b5, b6, b7, hb, high, low⟩ := len64Be_halves hn
  rw [hb, bytesValue_eight, high, low, Nat.div_add_mod]

/-! ### Windows -/

theorem pad_length_mod {m p : List Byte} (h : pad m = .ok p) : p.length % 64 = 0 := by
  obtain ⟨-, rfl⟩ := pad_eq_ok_iff.mp h
  have hz := zeroCount_mod m.length
  simp only [List.length_append, List.length_replicate, List.length_singleton, len64Be_length]
  omega

theorem pad_eq_append_len64Be {m p : List Byte} (h : pad m = .ok p) :
    ∃ front : List Byte, p = front ++ len64Be (8 * m.length) :=
  ⟨_, (pad_eq_ok_iff.mp h).2⟩

@[simp] theorem windows_length (p : List Byte) : (windows p).length = p.length / 64 := by
  simp [windows]

theorem windows_getElem? {p : List Byte} {q : Nat} (hq : q < p.length / 64) :
    (windows p)[q]? = some ((p.drop (64 * q)).take 64) := by
  simp [windows, hq]

theorem length_of_mem_windows {p l : List Byte} (hl : l ∈ windows p) : l.length = 64 := by
  obtain ⟨q, hq, rfl⟩ := List.mem_map.mp hl
  have hq : q < p.length / 64 := List.mem_range.mp hq
  rw [List.length_take, List.length_drop]
  omega

/-- The first `n` windows of a list joined are its first `64 * n` elements. -/
theorem flatten_map_take_drop (p : List Byte) (n : Nat) :
    ((List.range n).map fun q => (p.drop (64 * q)).take 64).flatten = p.take (64 * n) := by
  induction n with
  | zero => simp
  | succ n ih => simp [List.range_succ, ih, Nat.mul_succ, List.take_add]

theorem windows_flatten {p : List Byte} (hp : p.length % 64 = 0) : (windows p).flatten = p := by
  rw [windows, flatten_map_take_drop, Nat.mul_div_cancel' (Nat.dvd_of_mod_eq_zero hp), List.take_length]

/-- A list of whole windows ends with its last one, so a last window ends as the list does. -/
theorem exists_append_getLast?_windows {p l : List Byte} (hp : p.length % 64 = 0)
    (hl : (windows p).getLast? = some l) : ∃ front : List Byte, p = front ++ l := by
  obtain ⟨ws, hws⟩ := List.getLast?_eq_some_iff.mp hl
  exact ⟨ws.flatten, by rw [← windows_flatten hp, hws, List.flatten_concat]⟩

theorem drop_last_window {m p l : List Byte} (hp : pad m = .ok p) (hl : (windows p).getLast? = some l) :
    l.drop 56 = len64Be (8 * m.length) := by
  obtain ⟨f, hf⟩ := exists_append_getLast?_windows (pad_length_mod hp) hl
  obtain ⟨g, hg⟩ := pad_eq_append_len64Be hp
  have hlen : l.length = 64 := length_of_mem_windows (List.mem_of_getLast? hl)
  have h : (f ++ l.take 56) ++ l.drop 56 = g ++ len64Be (8 * m.length) := by
    rw [List.append_assoc, List.take_append_drop, ← hf, hg]
  exact (List.append_inj' h (by simp [hlen])).2

/-! ### A window as a block, and its words -/

theorem listBlock_eq_ok_iff {l : List Byte} {b : Block} : listBlock l = .ok b ↔ b.toList = l := by
  unfold listBlock
  split
  case isTrue h => rw [Except.ok.injEq, ← Vector.toList_inj, eq_comm]; rfl
  case isFalse h =>
    refine iff_of_false nofun fun hb => h ?_
    rw [← hb, Vector.length_toList]

theorem expand_eq_ok_iff {l : List Byte} {w : Schedule} :
    expand l = .ok w ↔ ∃ b : Block, b.toList = l ∧ expandBlock b = w := by
  simp only [← listBlock_eq_ok_iff, expand]
  cases listBlock l <;> simp [Except.map]

/-- The derived entries leave the sixteen words of the block as LDBLK placed them (R120, R121). -/
theorem expandBlock_low (b : Block) (i : Nat) (h : i < 16) : (expandBlock b)[i]'(by omega) = blockWord b ⟨i, h⟩ := by
  rw [expandBlock, expandLoop_frame _ _ _ _ (Or.inl h), loadBlock_low]

theorem blockWord_of_drop {b : Block} {b0 b1 b2 b3 b4 b5 b6 b7 : Byte}
    (h : b.toList.drop 56 = [b0, b1, b2, b3, b4, b5, b6, b7]) :
    blockWord b 14 = be32 b0 b1 b2 b3 ∧ blockWord b 15 = be32 b4 b5 b6 b7 := by
  have hb (k : Nat) (h56 : 56 ≤ k) (hk : k < 64) :
      b[k] = [b0, b1, b2, b3, b4, b5, b6, b7][k - 56]'(by simp; omega) := by
    simp [← h, Nat.add_sub_cancel' h56]
  constructor <;> simp [blockWord, hb]

/-- The bit length of a message lands in the last two words of the last block (R111). -/
theorem last_block_length_words {m p l : List Byte} {w : Schedule} (hp : pad m = .ok p)
    (hl : (windows p).getLast? = some l) (hw : expand l = .ok w) :
    w[14].toNat = 8 * m.length / 2 ^ 32 ∧ w[15].toNat = 8 * m.length % 2 ^ 32 := by
  have hm : m.length < 2 ^ 61 := (pad_eq_ok_iff.mp hp).1
  obtain ⟨b0, b1, b2, b3, b4, b5, b6, b7, hbytes, high, low⟩ := len64Be_halves (n := 8 * m.length) (by omega)
  obtain ⟨b, rfl, rfl⟩ := expand_eq_ok_iff.mp hw
  obtain ⟨h14, h15⟩ := blockWord_of_drop ((drop_last_window hp hl).trans hbytes)
  rw [← high, ← low, ← h14, ← h15, expandBlock_low b 14 (by decide), expandBlock_low b 15 (by decide)]
  exact ⟨rfl, rfl⟩

/-- Settles O54: both halves of the number are read off the length field, as a list of bytes and in the schedule of the
last block. -/
theorem lengthFieldBigEndian : Obligations.LengthFieldBigEndian :=
  ⟨fun n hn => ⟨len64Be_length n, bytesValue_len64Be hn⟩, by decide,
    fun _ _ _ _ hp hl hw => last_block_length_words hp hl hw⟩

/-! ### The blocks presented -/

theorem mapM_listBlock_toList (bs : List Block) : (bs.map fun b => b.toList).mapM listBlock = .ok bs := by
  induction bs with
  | nil => rfl
  | cons b bs ih =>
    rw [List.map_cons, List.mapM_cons, listBlock_eq_ok_iff.mpr rfl, ih]
    rfl

/-- Lists of 64 bytes are blocks (R55). -/
theorem exists_blocks_of_lengths {ls : List (List Byte)} (h : ∀ l ∈ ls, l.length = 64) :
    ∃ bs : List Block, bs.map (fun b => b.toList) = ls := by
  induction ls with
  | nil => exact ⟨[], rfl⟩
  | cons l ls ih =>
    obtain ⟨bs, rfl⟩ := ih fun x hx => h x (List.mem_cons_of_mem l hx)
    exact ⟨⟨l.toArray, h l List.mem_cons_self⟩ :: bs, rfl⟩

/-- After one INIT the host presents each window of the padded message with one BLOCK (R114). -/
theorem exists_hashItems_of_pad {m p : List Byte} (hp : pad m = .ok p) :
    ∃ bs : List Block, bs.map (fun b => b.toList) = windows p ∧ hashItems m = .ok (.init :: bs.map .block) := by
  obtain ⟨bs, hbs⟩ := exists_blocks_of_lengths fun l hl => length_of_mem_windows (p := p) hl
  have hm : messageBlocks m = .ok bs := by
    rw [messageBlocks, hp, ← mapM_listBlock_toList bs, hbs]
    rfl
  exact ⟨bs, hbs, by rw [hashItems, hm]; rfl⟩

theorem windows_byte {p : List Byte} {q k : Nat} (hq : q < p.length / 64) (hk : k < 64) :
    ((windows p)[q]?.bind fun l => l[k]?) = p[64 * q + k]? := by
  rw [windows_getElem? hq, Option.bind_some, List.getElem?_take_of_lt hk, List.getElem?_drop]

/-- Settles O55: a padded message is a whole number of windows, each of them a block. -/
theorem windowsCoverPadding : Obligations.WindowsCoverPadding := fun _ p hp =>
  ⟨windows_length p, fun _ => length_of_mem_windows, windows_flatten (pad_length_mod hp), fun _ _ => windows_byte,
    exists_hashItems_of_pad hp⟩

end Sys2Proof.Proofs
end

section
/-! The message scheduler (42_scheduler.md R120 to R122): what LDBLK and SCHED leave of the state, and that every entry
of `expand` satisfies the recurrence. The key fact is `schedEntry_set`: an entry is derived from earlier entries only, so
writing entry `j` leaves what the recurrence gives at `j` and below. -/

namespace Sys2Proof.Proofs
open Sys2Proof.Machine Sys2Proof.Laws

/-! ### The recurrence -/

theorem schedEntry_eq_sum (w : Schedule) (i : Fin 64) :
    schedEntry w i = w[i.val - 16] + ssig0 w[i.val - 15] + w[i.val - 7] + ssig1 w[i.val - 2] := rfl

/-- The four sources of an entry stand at smaller indices, never at its own (R122). -/
theorem schedEntry_set (w : Schedule) (x : Word) {i : Fin 64} {j : Nat} (hj : j < 64) (hi : 16 ≤ i.val)
    (hij : i.val ≤ j) : schedEntry (w.set j x) i = schedEntry w i := by
  have earlier (k : Nat) (hk : k < i.val) : (w.set j x)[k] = w[k] := Vector.getElem_set_ne _ _ (by omega)
  simp (disch := omega) only [schedEntry, earlier]

/-- After `n` derived entries each of them satisfies the recurrence in the array as it then stands (R120). -/
theorem expandLoop_derived (w : Schedule) {n i : Nat} (hn : n ≤ 48) (h : i < 64) (hi : 16 ≤ i) (hin : i < 16 + n) :
    (expandLoop w n)[i] = schedEntry (expandLoop w n) ⟨i, h⟩ := by
  induction n with
  | zero => omega
  | succ n ih =>
    have hle : i ≤ 16 + n := by omega
    rw [expandLoop_succ w n (by omega), schedEntry_set _ _ _ hi hle]
    rcases Nat.lt_or_eq_of_le hle with hlt | rfl
    · rw [Vector.getElem_set_ne _ _ hlt.ne']
      exact ih (by omega) hlt
    · exact Vector.getElem_set_self _

/-! ### `expand` (R120) -/

theorem expand_of_length_ne {l : List Byte} (h : l.length ≠ 64) : expand l = .error .precondBlockLen := by
  rw [expand, listBlock, dif_neg h]
  rfl

theorem blockWord_eq_getD (b : Block) (j : Fin 16) :
    blockWord b j = be32 (b.toList.getD (4 * j.val) 0) (b.toList.getD (4 * j.val + 1) 0)
      (b.toList.getD (4 * j.val + 2) 0) (b.toList.getD (4 * j.val + 3) 0) := by
  have byte (k : Nat) (hk : k < 64) : b.toList.getD k 0 = b[k] := by simp [hk]
  simp (disch := omega) only [byte, blockWord]

/-- Settles O41: the words of the block stay as loaded, the others are `expandLoop_derived` at the last index. -/
theorem expandDerivesSchedule : Obligations.ExpandDerivesSchedule := by
  refine ⟨fun _ => expand_of_length_ne, fun bytes h => ?_⟩
  obtain ⟨b, rfl⟩ : ∃ b : Block, b.toList = bytes := ⟨⟨bytes.toArray, h⟩, rfl⟩
  refine ⟨expandBlock b, expand_eq_ok_iff.mpr ⟨b, rfl, rfl⟩, fun j => ?_, fun i hi => ?_⟩
  · rw [expandBlock_low b j.val j.isLt, blockWord_eq_getD]
  · rw [← schedEntry_eq_sum]
    exact expandLoop_derived _ (le_refl 48) i.isLt hi i.isLt

/-! ### LDBLK (R121) and SCHED (R122) -/

@[simp] theorem ldblk_w (s : State) : (ldblk s).w = loadBlock s.blockIn s.w := rfl

/-- Settles O21: LDBLK writes the words below 16, and the accepting step of BLOCK has only `dv` and the position to
write besides. -/
theorem blockAcceptedLoadsWords : Obligations.BlockAcceptedLoadsWords := by
  intro s ho
  refine ⟨_, exec_block_open ho, fun j => ?_, fun i hi => ?_, rfl, rfl, rfl, ?_⟩
  · rw [setPc_w, flagsBlock_w, ldblk_w, loadBlock_low _ _ j.val j.isLt, blockWord, be32_toNat]
  · rw [setPc_w, flagsBlock_w, ldblk_w]
    exact loadBlock_high _ _ i.val i.isLt hi
  · simp only [setPc, flagsBlock, ldblk, writeW]

/-- Moving on writes the position and nothing else (R29). -/
theorem advance_frame (here after : Phase) (s : State) :
    advance here after s =
      { s with phase := (advance here after s).phase, t := (advance here after s).t } := by
  unfold advance
  split <;> rfl

/-- Settles O23: the array by `schedEntry` at the counter, the position by `advance_position`. -/
theorem schedWritesOneEntry : Obligations.SchedWritesOneEntry := by
  intro s cc ht
  obtain ⟨below, last⟩ :=
    advance_position .sched .ldreg (writeW (s.w.set (indexOf s.t) (schedEntry s.w (indexOf s.t))) s)
  refine ⟨_, exec_sched cc ht, fun i hi => ?_, fun i hi => ?_, last, fun h => below (toNat_succ_of_not_last h).2, ?_⟩
  · obtain rfl : i = indexOf s.t := Fin.ext hi
    rw [advance_w, ← schedEntry_eq_sum]
    exact Vector.getElem_set_self _
  · rw [advance_w]
    exact Vector.getElem_set_ne (indexOf s.t).isLt i.isLt (Ne.symm hi)
  · rw [advance_w]
    exact advance_frame _ _ _

end Sys2Proof.Proofs
end

section
/-! The compressor (43_compressor.md R130 to R132): the round's equations, `compress` as 64 rounds in order, and what
LDREG and ROUND leave of the state. -/

namespace Sys2Proof.Proofs
open Sys2Proof.Machine Sys2Proof.Laws

/-! ### One round -/

theorem temp1_eq_sum (r : State8) (k w : Word) : temp1 r k w = r[7] + bsig1 r[4] + ch r[4] r[5] r[6] + k + w := rfl

theorem temp2_eq_sum (r : State8) : temp2 r = bsig0 r[0] + maj r[0] r[1] r[2] := rfl

theorem roundRegs_eq (r : State8) (k w : Word) :
    roundRegs r k w =
      #v[temp1 r k w + temp2 r, r[0], r[1], r[2], r[3] + temp1 r k w, r[4], r[5], r[6]] := rfl

/-! ### `compress` (R130) -/

theorem compress_of_length_ne {ws : List Word} (r : State8) (h : ws.length ≠ 64) :
    compress ws r = .error .precondSchedLen :=
  dif_neg h

theorem compress_toList (w : Schedule) (r : State8) : compress w.toList r = .ok (compressWords w r) :=
  dif_pos w.length_toList

/-- Settles O42: the register files are those of `compressLoop`, each one round after the one before. -/
theorem compressRunsRounds : Obligations.CompressRunsRounds := by
  refine ⟨fun _ r => compress_of_length_ne r, fun ws r h => ?_⟩
  obtain ⟨w, rfl⟩ : ∃ w : Schedule, w.toList = ws := ⟨⟨ws.toArray, h⟩, rfl⟩
  refine ⟨compressLoop w r, rfl, compress_toList w r, fun i => ?_⟩
  have word : w.toList.getD i 0 = w[i] := by simp
  rw [compressLoop_succ w r i i.isLt, roundRegs_eq, temp1_eq_sum, temp2_eq_sum, word]
  rfl

/-! ### LDREG (R131) and ROUND (R132) -/

/-- Settles O25: `exec_ldreg` writes the registers and the position. -/
theorem ldregCopiesHs : Obligations.LdregCopiesHs := by
  intro s cc
  refine ⟨_, exec_ldreg cc s, fun j => ?_, rfl, rfl, rfl⟩
  rw [setPc_wr, writeWr_wr]

/-- Settles O26: the registers by `roundRegs` at the counter, the position by `advance_position`. -/
theorem roundMixesRegisters : Obligations.RoundMixesRegisters := by
  intro s cc
  obtain ⟨below, last⟩ :=
    advance_position .round .feed (writeWr (roundRegs s.wr romK[indexOf s.t] s.w[indexOf s.t]) s)
  refine ⟨_, exec_round cc s, fun i hi => ?_, last, fun h => below (toNat_succ_of_not_last h).2, ?_⟩
  · obtain rfl : i = indexOf s.t := Fin.ext hi
    rw [advance_wr, writeWr_wr, roundRegs_eq, temp1_eq_sum, temp2_eq_sum]
    exact ⟨rfl, rfl, rfl, rfl, rfl, rfl, rfl, rfl⟩
  · rw [advance_wr]
    exact advance_frame _ _ _

end Sys2Proof.Proofs
end

section
/-! The digest accumulator (44_accumulator.md R142, R143, R147, R148): what NOP, INIT and FEED leave of the state, and
the digest port as the eight words of `HS` side by side. -/

namespace Sys2Proof.Proofs
open Sys2Proof.Machine Sys2Proof.Laws

/-! ### The digest port (R148, R56) -/

/-- Digest bytes 4j to 4j + 3 are those of word `j`. -/
theorem render_get (hs : State8) (j : Fin 8) (k : Fin 4) : (render hs)[4 * j.val + k.val] = (bytesBe32 hs[j])[k] := by
  have word : (4 * j.val + k.val) / 4 = j.val := by omega
  have byte : (4 * j.val + k.val) % 4 = k.val := by omega
  simp [render, bytesBe32, word, byte]

theorem digestVector_extractLsb'_byte (d : Digest) {i k : Nat} (h : i + 8 * k = 248) :
    (digestVector d).extractLsb' i 8 = d[k]'(by omega) := by
  have hk : k < d.toList.length := by rw [Vector.length_toList]; omega
  have hi : 8 * (d.toList.length - 1 - k) = i := by rw [Vector.length_toList]; omega
  have slice := extractLsb'_ofNat_bytesValue (n := 256) (by simp) hk
  rwa [hi, Vector.getElem_toList] at slice

/-- A word slice of the digest port is the four digest bytes it covers. -/
theorem digestVector_extractLsb'_word (d : Digest) (j : Fin 8) :
    (digestVector d).extractLsb' (224 - 32 * j.val) 32 =
      be32 d[4 * j.val] d[4 * j.val + 1] d[4 * j.val + 2] d[4 * j.val + 3] := by
  rw [← be32_extractLsb']
  congr 1 <;> exact digestVector_extractLsb'_byte d (by omega)

/-- Four digest bytes are one word of `HS` again: rendering loses nothing. -/
theorem be32_render (hs : State8) (j : Fin 8) :
    be32 (render hs)[4 * j.val] (render hs)[4 * j.val + 1] (render hs)[4 * j.val + 2] (render hs)[4 * j.val + 3] =
      hs[j] := calc
  _ = be32 (bytesBe32 hs[j])[0] (bytesBe32 hs[j])[1] (bytesBe32 hs[j])[2] (bytesBe32 hs[j])[3] :=
    congr (congr (congr (congrArg be32 (render_get hs j 0)) (render_get hs j 1)) (render_get hs j 2))
      (render_get hs j 3)
  _ = hs[j] := be32_bytesBe32 hs[j]

/-- Settles O14: the bytes by `render_get`, the slices of the vector as those of the block port. -/
theorem digestPortRendersHs : Obligations.DigestPortRendersHs := fun s =>
  ⟨fun j => ⟨render_get s.hs j 0, render_get s.hs j 1, render_get s.hs j 2, render_get s.hs j 3⟩,
    fun k => digestVector_extractLsb'_byte (digestOut s) (by omega),
    fun j => (digestVector_extractLsb'_word (digestOut s) j).trans (be32_render s.hs j)⟩

/-! ### NOP (R142) -/

/-- In phase IDLE a NOP step drives the ports and has nothing else to do. -/
theorem nopStep_of_idle {s : State} (hp : s.phase = .idle) :
    nopStep s = .next (drivePorts cmdNop s.blockIn { s with pending := [] }) := by
  have hi : selected .idle cmdNop = .nop := by decide
  rw [nopStep, stepWith, step_of_drive rfl, hp, hi, exec_nop]

theorem digestOut_eq_of_elements_eq {s u : State} (h : elements u = elements s) : digestOut u = digestOut s := by
  have hs : u.hs = s.hs := congrArg Elements.hs h
  rw [digestOut, hs, digestOut]

/-- NOP steps from phase IDLE stay there, so each finds the elements as the first did. -/
theorem nopSteps_of_idle (n : Nat) {s : State} (hp : s.phase = .idle) :
    ∃ u, nopSteps n s = .next u ∧ elements u = elements s := by
  induction n generalizing s with
  | zero => exact ⟨s, rfl, rfl⟩
  | succ n ih =>
    obtain ⟨u, run, kept⟩ := ih (s := drivePorts cmdNop s.blockIn { s with pending := [] }) hp
    refine ⟨u, ?_, kept⟩
    rw [nopSteps, nopStep_of_idle hp, andThen_next, run]

/-- Settles O19: one NOP by `exec_nop`, any number in phase IDLE by `nopSteps_of_idle`. -/
theorem nopChangesNothing : Obligations.NopChangesNothing := by
  refine ⟨exec_nop, fun s n hp => ?_⟩
  obtain ⟨u, run, kept⟩ := nopSteps_of_idle n hp
  exact ⟨u, run, kept, digestOut_eq_of_elements_eq kept⟩

/-! ### INIT (R143) -/

/-- Only IDLE looks at the command, and there each code has its own operation. -/
theorem selected_eq_init_iff (p : Phase) (c : CmdCode) : selected p c = .init ↔ p = .idle ∧ c = cmdInit := by
  cases p with
  | idle => revert c; decide
  | sched | ldreg | round | feed | fault => simp [selected]

/-- Settles O20: the writes of `exec_init` are constants, so a second INIT writes them again; acceptance is
`selected_eq_init_iff`. -/
theorem initBeginsMessage : Obligations.InitBeginsMessage := by
  refine ⟨fun s => ⟨_, exec_init s, fun j => ?_, rfl, rfl, rfl, rfl, rfl, exec_init _⟩, fun s => ?_⟩
  · rw [setPc_hs, flagsInit_hs, writeHs_hs]
  · rw [decodeWord, decode_phaseCode_append, Except.ok.injEq]
    exact selected_eq_init_iff s.phase s.cmd

/-! ### FEED (R147) -/

/-- Settles O27: `HS` by `feedForward_get`, one sum to a word; `exec_feed` has only `dv` and the position to write
besides. -/
theorem feedAddsForward : Obligations.FeedAddsForward := by
  intro s cc
  refine ⟨_, exec_feed cc s, fun j => ?_, rfl, rfl, rfl, rfl⟩
  have sum : (feedForward s.hs s.wr)[j] = s.hs[j] + s.wr[j] := feedForward_get s.hs s.wr j.val j.isLt
  rw [setPc_hs, flagsFeed_hs, writeHs_hs, sum, BitVec.toNat_add]

end Sys2Proof.Proofs
end

section
/-! Exceptions (60_exceptions.md R162 to R168): the two length preconditions, fault entry, and phase FAULT, in which every
step but the reset event keeps every element. -/

namespace Sys2Proof.Proofs
open Sys2Proof.Machine Sys2Proof.Laws

/-! ### The precondition violations (R162) -/

theorem exists_vector_of_length {α : Type} {n : Nat} {l : List α} (h : l.length = n) :
    ∃ v : Vector α n, v.toList = l := ⟨⟨l.toArray, h⟩, rfl⟩

theorem expand_eq_error_iff (l : List Byte) : expand l = .error .precondBlockLen ↔ l.length ≠ 64 := by
  refine ⟨fun failure h => ?_, expand_of_length_ne⟩
  obtain ⟨b, rfl⟩ := exists_vector_of_length h
  rw [expand_eq_ok_iff.mpr ⟨b, rfl, rfl⟩] at failure
  cases failure

theorem compress_eq_error_iff (ws : List Word) (r : State8) :
    compress ws r = .error .precondSchedLen ↔ ws.length ≠ 64 := by
  refine ⟨fun failure h => ?_, compress_of_length_ne r⟩
  obtain ⟨w, rfl⟩ := exists_vector_of_length h
  rw [compress_toList] at failure
  cases failure

/-- Settles O43: a value at 64 bytes or words, the error at every other length. -/
theorem preconditionsChecked : Obligations.PreconditionsChecked :=
  ⟨expand_eq_error_iff, compress_eq_error_iff, rfl, rfl⟩

/-! ### A step of the core, no reset applied -/

theorem step_of_no_reset {s : State} (hr : resetNext s = false) :
    ∃ b, step s = exec (selected s.phase (sampledCmd s)) (sampledState b s) := by
  obtain ⟨es, hes, -⟩ | ⟨b, -, hs⟩ := step_cases s
  · simp [resetNext, hes] at hr
  · exact ⟨b, hs⟩

theorem step_of_accepts {c : CmdCode} {s : State} (ha : accepts c s) :
    ∃ b, step s = exec (selected .idle c) (sampledState b s) := by
  obtain ⟨hr, hp, hc⟩ := ha
  obtain ⟨b, hs⟩ := step_of_no_reset hr
  exact ⟨b, by rw [hs, hp, hc]⟩

theorem step_of_fault {s : State} (hp : s.phase = .fault) (hr : resetNext s = false) :
    ∃ b, step s = .next (sampledState b s) := by
  obtain ⟨b, hs⟩ := step_of_no_reset hr
  exact ⟨b, by rw [hs, hp, selected, exec_halt]⟩

/-- The ports and the host's moves are no elements of R20. -/
@[simp] theorem elements_sampledState (b : Block) (s : State) : elements (sampledState b s) = elements s := rfl

/-! ### Fault entry (R163, R164, R166) -/

theorem raise_eq (c : FaultCause) (s : State) :
    raise c s = { s with fcode := faultCode c, isOpen := false, dv := false, phase := .fault, t := 0 } := rfl

theorem elements_raise (c : FaultCause) (s : State) :
    elements (raise c s) =
      { elements s with fcode := faultCode c, isOpen := false, dv := false, phase := .fault, t := 0 } := rfl

theorem outputs_raise (c : FaultCause) (s : State) :
    faultOut (raise c s) = true ∧ ready (raise c s) = false ∧ digestValid (raise c s) = false ∧
      faultCodeOut (raise c s) = faultCode c := ⟨rfl, rfl, rfl, rfl⟩

theorem step_block_closed {s : State} (ha : accepts cmdBlock s) (ho : s.isOpen = false) :
    ∃ b, step s = .next (raise .blockBeforeInit (sampledState b s)) := by
  obtain ⟨b, hs⟩ := step_of_accepts ha
  have hi : selected .idle cmdBlock = .block := by decide
  exact ⟨b, by rw [hs, hi]; exact exec_block_closed ho⟩

theorem step_rsvd3 {s : State} (ha : accepts cmdRsvd3 s) :
    ∃ b, step s = .next (raise .reservedCmd (sampledState b s)) := by
  obtain ⟨b, hs⟩ := step_of_accepts ha
  have hi : selected .idle cmdRsvd3 = .rsvd3 := by decide
  exact ⟨b, by rw [hs, hi, exec_rsvd3]⟩

/-- Settles O22: each of the four ends in `raise`, whose writes are the whole of the fault entry. -/
theorem faultEntryIsPrecise : Obligations.FaultEntryIsPrecise := by
  refine fun s => ⟨fun ho => ?_, ?_, fun ha ho => ?_, fun ha => ?_⟩
  · exact ⟨_, exec_block_closed ho, raise_eq _ s, outputs_raise _ s⟩
  · exact ⟨_, exec_rsvd3 s, raise_eq _ s, outputs_raise _ s⟩
  · obtain ⟨b, hs⟩ := step_block_closed ha ho
    exact ⟨_, hs, elements_raise _ (sampledState b s)⟩
  · obtain ⟨b, hs⟩ := step_rsvd3 ha
    exact ⟨_, hs, elements_raise _ (sampledState b s)⟩

/-! ### Phase FAULT (R167, R168) -/

/-- Settles O28: in FAULT the operation is HALT whatever `cmd` is, so a step writes the ports only. -/
theorem haltHoldsFault : Obligations.HaltHoldsFault := by
  refine ⟨fun s cc => exec_halt cc s, fun s hp hr => ?_⟩
  obtain ⟨b, hs⟩ := step_of_fault hp hr
  exact ⟨_, hs, elements_sampledState b s⟩

theorem noReset_succ {n : Nat} {s : State} (h : noReset (n + 1) s) (b : Block) :
    resetNext s = false ∧ noReset n (sampledState b s) := by
  cases hs : s.pending with
  | nil => simp [resetNext, noReset, hs]
  | cons e es =>
    rw [noReset, hs, List.take_succ_cons, List.forall_mem_cons] at h
    obtain ⟨he, hes⟩ := h
    refine ⟨?_, by simpa [noReset, hs] using hes⟩
    cases e with
    | reset => exact absurd rfl he
    | drive c b => simp [resetNext, hs]

/-- A step from FAULT stays there, so each finds the elements as the first did. -/
theorem steps_of_fault (n : Nat) {s : State} (hp : s.phase = .fault) (hn : noReset n s) :
    ∃ u, steps n s = .next u ∧ elements u = elements s := by
  induction n generalizing s with
  | zero => exact ⟨s, rfl, rfl⟩
  | succ n ih =>
    obtain ⟨b, hs⟩ := step_of_fault hp (noReset_succ hn s.blockIn).1
    obtain ⟨u, run, kept⟩ := ih (s := sampledState b s) hp (noReset_succ hn b).2
    exact ⟨u, (steps_succ_of_next n hs).trans run, kept⟩

theorem not_complete_of_failed {s : State} (h : failed s) : ¬ complete s := by
  rintro ⟨-, -, noFault⟩
  rw [faultOut, show s.phase = .fault from h] at noFault
  cases noFault

theorem resetNext_of_step_leaves_fault {s u : State} (hp : s.phase = .fault) (h : step s = .next u)
    (hu : u.phase ≠ .fault) : resetNext s = true := by
  by_contra hr
  obtain ⟨b, hs⟩ := step_of_fault hp (Bool.eq_false_of_not_eq_true hr)
  cases hs.symm.trans h
  exact hu hp

/-- Settles O35: any number of steps by `steps_of_fault`, the way out by `step_of_reset`. -/
theorem onlyResetLeavesFault : Obligations.OnlyResetLeavesFault := by
  refine ⟨fun s n hp hn => ?_, fun s u => resetNext_of_step_leaves_fault, fun s es _ hes => ?_⟩
  · obtain ⟨u, run, kept⟩ := steps_of_fault n hp hn
    have hu : failed u := (congrArg Elements.phase kept).trans hp
    exact ⟨u, run, kept, hu, not_complete_of_failed hu⟩
  · exact ⟨_, step_of_reset hes, rfl, rfl⟩

end Sys2Proof.Proofs
end

section
/-! Hazards at the input ports (70_reset_and_hazards.md R195): only IDLE looks at `cmd`, and only the operation BLOCK
reads `block_in`, so every other step commutes with driving other values on the ports. -/

namespace Sys2Proof.Proofs
open Sys2Proof.Machine Sys2Proof.Laws

theorem stepWith_eq_exec (c : CmdCode) (b : Block) (s : State) :
    stepWith c b s = exec (selected s.phase c) (drivePorts c b { s with pending := [] }) :=
  step_of_drive rfl

/-! ### The command port -/

/-- Only IDLE looks at the command, and there one code alone selects BLOCK. -/
theorem selected_eq_block_iff (p : Phase) (c : CmdCode) : selected p c = .block ↔ p = .idle ∧ c = cmdBlock := by
  cases p with
  | idle => revert c; decide
  | sched | ldreg | round | feed | fault => simp [selected]

/-- Outside IDLE the command is carried by the operation and never read. -/
theorem exec_selected_of_ne_idle {p : Phase} (hp : p ≠ .idle) (c d : CmdCode) :
    exec (selected p c) = exec (selected p d) := by
  cases p with
  | idle => exact absurd rfl hp
  | sched | ldreg | round | feed | fault => rfl

/-! ### The block port -/

theorem advance_drivePorts (here after : Phase) (c : CmdCode) (b : Block) (s : State) :
    advance here after (drivePorts c b s) = drivePorts c b (advance here after s) := by
  by_cases ht : s.t = 63
  · rw [advance_of_last here after ht, advance_of_last here after (s := drivePorts c b s) ht]
    rfl
  · rw [advance_of_not_last here after ht, advance_of_not_last here after (s := drivePorts c b s) ht]
    rfl

/-- Every operation but BLOCK leaves the ports alone and does not look at them. -/
theorem exec_drivePorts {i : Instr} {s u : State} (hi : i ≠ .block) (h : exec i s = .next u)
    (c : CmdCode) (b : Block) :
    exec i (drivePorts c b s) = .next (drivePorts c b u) := by
  cases i with
  | block => exact absurd rfl hi
  | nop | init | rsvd3 | ldreg cc | feed cc | halt cc => cases h; rfl
  | round cc =>
    cases h
    exact congrArg Host.Outcome.next (advance_drivePorts .round .feed c b (writeWr _ s))
  | sched cc =>
    by_cases ht : 16 ≤ s.t.toNat
    · cases (exec_sched cc ht).symm.trans h
      rw [exec_sched (s := drivePorts c b s) cc ht]
      exact congrArg Host.Outcome.next (advance_drivePorts .sched .ldreg c b (writeW _ s))
    · cases (exec_sched_stops cc (Nat.lt_of_not_le ht)).symm.trans h

/-! ### Both ports -/

/-- Settles O36: the other values select the same operation, it is not BLOCK, and so the step commutes with driving
them; the ports are no elements of R20. -/
theorem portsIgnoredWhileBusy : Obligations.PortsIgnoredWhileBusy := by
  intro s u c d b e hcase h
  have hop : exec (selected s.phase c) = exec (selected s.phase d) ∧ selected s.phase c ≠ .block := by
    rw [Ne, selected_eq_block_iff]
    obtain hbusy | ⟨rfl, hc⟩ := hcase
    · have hp : s.phase ≠ .idle := by simpa [ready] using hbusy
      exact ⟨exec_selected_of_ne_idle hp c d, fun hb => hp hb.1⟩
    · exact ⟨rfl, fun hb => hc hb.2⟩
  obtain ⟨same, notBlock⟩ := hop
  rw [stepWith_eq_exec] at h
  refine ⟨drivePorts d e u, ?_, rfl⟩
  rw [stepWith_eq_exec, ← same]
  exact exec_drivePorts notBlock h d e

end Sys2Proof.Proofs
end

section
/-! The invariants 1 to 5 of 10_state.md section 10: they hold after reset, every step from them answers a next state,
and every step keeps them; and what one step can change of the register files, of the fault phase and of a valid
digest. -/

namespace Sys2Proof.Proofs
open Sys2Proof.Machine Sys2Proof.Laws

/-! ### The invariants, step by step -/

/-- The reset event writes every field the invariants speak of. -/
theorem inv_resetEvent (s : State) : Inv (resetEvent s) := by
  constructor <;> simp [busy]

/-- Settles O39: the fields of `State.reset` are those the invariants ask for. -/
theorem resetMeetsInvariant : Obligations.ResetMeetsInvariant := by
  unfold Obligations.ResetMeetsInvariant
  constructor <;> simp [State.reset, busy]

/-- The ports and the host's moves are not among the fields the invariants speak of. -/
theorem inv_of_elements_eq {s u : State} (h : elements u = elements s) (hI : Inv s) : Inv u := by
  obtain ⟨hsched, hzero, hblock, hvalid, hfault, hin, hcodes⟩ := hI
  simp only [elements, Elements.mk.injEq] at h
  obtain ⟨-, -, -, hp, ht, ho, hd, hf⟩ := h
  constructor <;> simpa only [busy, hp, ht, ho, hd, hf]

theorem inv_withPending {s : State} (hI : Inv s) (es : List HostEvent) : Inv { s with pending := es } :=
  inv_of_elements_eq (s := s) rfl hI

/-- With a message begun, no fault and no digest yet, the invariants ask no more than the range of the counter. -/
theorem inv_of_open {s : State} (hp : s.phase ≠ .fault) (flags : s.isOpen = true ∧ s.dv = false ∧ s.fcode = 0)
    (hsched : s.phase = .sched → 16 ≤ s.t.toNat) (hzero : s.phase ≠ .sched → s.phase ≠ .round → s.t = 0) : Inv s := by
  obtain ⟨ho, hd, hf⟩ := flags
  exact ⟨hsched, hzero, fun _ => ⟨ho, hd, hf⟩, by simp [hd], by simp [hp, hf], fun h => absurd h hp, .inl hf⟩

theorem inv_raise {c : FaultCause} (hc : c = .blockBeforeInit ∨ c = .reservedCmd) (s : State) : Inv (raise c s) := by
  obtain rfl | rfl := hc <;> constructor <;> simp [busy, faultCode]

/-- The counted loops: below 63 the counter goes on, after 63 it is 0 in the next phase. -/
theorem inv_advance {here after : Phase} {s : State} (hhere : here = .sched ∨ here = .round)
    (hafter : after = .ldreg ∨ after = .feed) (flags : s.isOpen = true ∧ s.dv = false ∧ s.fcode = 0)
    (hsched : here = .sched → 16 ≤ s.t.toNat) : Inv (advance here after s) := by
  by_cases h63 : s.t = 63
  · rw [advance_of_last _ _ h63]
    exact inv_of_open (by obtain rfl | rfl := hafter <;> simp) flags
      (by obtain rfl | rfl := hafter <;> simp) fun _ _ => rfl
  · have hsucc := (toNat_succ_of_not_last h63).1
    rw [advance_of_not_last _ _ h63]
    refine inv_of_open (by obtain rfl | rfl := hhere <;> simp) flags (fun hp => ?_) fun h1 h2 => ?_
    · have h16 := hsched hp
      rw [setPc_t, hsucc]
      omega
    · exact absurd hhere (not_or.mpr ⟨h1, h2⟩)

/-- Commands are accepted in phase IDLE only. -/
theorem phase_of_accepts {c : CmdCode} {s : State} (ha : accepts c s) : s.phase = .idle := ha.2.1

theorem inv_of_stepEffect {s u : State} (hI : Inv s) (h : StepEffect s u) : Inv u := by
  have noFault (hp : s.phase = .idle) : s.fcode = 0 := by
    by_contra hf
    simp [hI.faultIff.mpr hf] at hp
  cases h with
  | reset hr => exact inv_resetEvent _
  | nop b ha => exact inv_of_elements_eq (elements_sampledState b s) hI
  | halt b hr hp => exact inv_of_elements_eq (elements_sampledState b s) hI
  | init b ha => exact inv_of_open (by simp) (by simp [noFault (phase_of_accepts ha)]) (by simp) (by simp)
  | blockOpen b ha ho => exact inv_of_open (by simp) (by simp [ho, noFault (phase_of_accepts ha)]) (by simp) (by simp)
  | blockClosed b ha ho => exact inv_raise (.inl rfl) _
  | rsvd3 b ha => exact inv_raise (.inr rfl) _
  | sched b hr hp ht => exact inv_advance (.inl rfl) (.inl rfl) (hI.inBlock (.inl hp)) fun _ => ht
  | ldreg b hr hp => exact inv_of_open (by simp) (hI.inBlock (.inr (.inl hp))) (by simp) (by simp)
  | round b hr hp =>
    exact inv_advance (.inr rfl) (.inr rfl) (hI.inBlock (.inr (.inr (.inl hp)))) (by simp)
  | feed b hr hp =>
    obtain ⟨ho, -, hf⟩ := hI.inBlock (.inr (.inr (.inr hp)))
    constructor <;> simp [busy, ho, hf]

/-- Only SCHED below index 16 stops the machine. -/
theorem exec_selected_total (p : Phase) (c : CmdCode) {s : State} (h : p = .sched → 16 ≤ s.t.toNat) :
    ∃ u, exec (selected p c) s = .next u := by
  cases p with
  | idle =>
    obtain rfl | rfl | rfl | rfl := cmdCode_cases c
    · exact ⟨_, rfl⟩
    · exact ⟨_, rfl⟩
    · cases ho : s.isOpen with
      | true => exact ⟨_, exec_block_open ho⟩
      | false => exact ⟨_, exec_block_closed ho⟩
    · exact ⟨_, rfl⟩
  | sched => exact ⟨_, exec_sched c (h rfl)⟩
  | ldreg | round | feed | fault => exact ⟨_, rfl⟩

theorem step_total {s : State} (h : s.phase = .sched → 16 ≤ s.t.toNat) : ∃ u, step s = .next u := by
  obtain ⟨es, -, hs⟩ | ⟨b, -, hs⟩ := step_cases s
  · exact ⟨_, hs⟩
  · rw [hs]
    exact exec_selected_total s.phase _ h

/-- Settles O38: a step answers a next state because of invariant 2, and keeps the invariants transition by transition. -/
theorem stepKeepsInvariant : Obligations.StepKeepsInvariant := by
  intro s hI
  obtain ⟨u, hu⟩ := step_total hI.schedIndex
  exact ⟨u, hu, inv_of_stepEffect hI (stepEffect_of_step hu)⟩

theorem inv_of_step {s u : State} (hI : Inv s) (h : step s = .next u) : Inv u :=
  inv_of_stepEffect hI (stepEffect_of_step h)

theorem inv_of_steps {n : Nat} {s u : State} (hI : Inv s) (h : steps n s = .next u) : Inv u := by
  induction n generalizing s with
  | zero => cases h; exact hI
  | succ n ih =>
    obtain ⟨v, hv, hIv⟩ := stepKeepsInvariant s hI
    rw [steps_succ_of_next n hv] at h
    exact ih hIv h

/-! ### Which steps write the register files (R20, R22 to R24) -/

/-- Settles O33: the writes of each transition. -/
theorem registerFileWriters : Obligations.RegisterFileWriters := by
  intro s u h hr
  cases stepEffect_of_step h with
  | reset hr' => simp [hr] at hr'
  | nop b ha | rsvd3 b ha | blockClosed b ha | halt b => simp
  | init b ha => simp [ha]
  | blockOpen b ha ho =>
    refine ⟨by simp [ldblk], by simp [ldblk], fun i hi => .inl ⟨ha, ho, ?_⟩⟩
    by_contra h16
    exact hi (loadBlock_high _ _ i.val i.isLt (Nat.le_of_not_lt h16))
  | sched b hr hp ht =>
    refine ⟨by simp, by simp, fun i hi => .inr ⟨hp, ?_⟩⟩
    by_contra hne
    rw [advance_w, writeW_w] at hi
    exact hi (Vector.getElem_set_ne (indexOf s.t).isLt i.isLt (Ne.symm hne))
  | ldreg b hr hp | round b hr hp | feed b hr hp => simp [hp]

/-! ### The two ways into FAULT (R161, R169) -/

theorem accepts_unique {c d : CmdCode} {s : State} (hc : accepts c s) (hd : accepts d s) : c = d :=
  hc.2.2.symm.trans hd.2.2

theorem faultsNext_of_stepEffect {s u : State} (hs : s.phase ≠ .fault) (hu : u.phase = .fault) (h : StepEffect s u) :
    (accepts cmdBlock s ∧ s.isOpen = false ∧ u.fcode = 4) ∨ (accepts cmdRsvd3 s ∧ u.fcode = 5) := by
  cases h with
  | blockClosed b ha ho => exact .inl ⟨ha, ho, rfl⟩
  | rsvd3 b ha => exact .inr ⟨ha, rfl⟩
  | reset hr => simp at hu
  | init b ha | blockOpen b ha ho | ldreg b hr hp | feed b hr hp => simp at hu
  | nop b ha | halt b hr hp => exact absurd hu hs
  | sched b hr hp ht | round b hr hp =>
    rw [advance_phase] at hu
    split at hu <;> cases hu

/-- A host that presents the reserved code nowhere and BLOCK only after INIT asks for neither fault. -/
theorem not_faultsNext_of_disciplined {s : State} (hd : disciplined s) : ¬ faultsNext s := by
  have asked {c : CmdCode} (hc : c ≠ cmdNop) (ha : accepts c s) :
      c ≠ cmdRsvd3 ∧ (s.phase = .idle → c = cmdBlock → s.isOpen = true) := by
    obtain ⟨hr, -, hcmd⟩ := ha
    match hp : s.pending with
    | .drive d b :: es => simp only [sampledCmd, hp] at hcmd; exact hcmd ▸ hd d b es hp
    | .reset :: es => simp [resetNext, hp] at hr
    | [] => simp only [sampledCmd, hp] at hcmd; exact absurd hcmd.symm hc
  rintro (⟨ha, ho⟩ | ha)
  · simp [(asked (by decide) ha).2 (phase_of_accepts ha) rfl] at ho
  · exact (asked (by decide) ha).1 rfl

/-- Settles O34: of the transitions from another phase only the two of `raise` end in FAULT, and a disciplined host asks
for neither. -/
theorem faultsOnlyByProtocol : Obligations.FaultsOnlyByProtocol := by
  intro s u h hs
  have entered (hu : u.phase = .fault) := faultsNext_of_stepEffect hs hu (stepEffect_of_step h)
  refine ⟨fun hu => ?_, fun hd hu => not_faultsNext_of_disciplined hd ?_⟩
  · obtain ⟨ha, ho, hf⟩ | ⟨ha, hf⟩ := entered hu
    · exact .inl ⟨ha, ho, hf, fun hb => absurd (accepts_unique ha hb) (by decide)⟩
    · exact .inr ⟨ha, hf, fun hb => absurd (accepts_unique ha hb) (by decide)⟩
  · obtain ⟨ha, ho, -⟩ | ⟨ha, -⟩ := entered hu
    · exact .inl ⟨ha, ho⟩
    · exact .inr ha

/-! ### A valid digest stays (R58) -/

/-- Settles O37: with `dv` = 1 the phase is IDLE, and there only NOP leaves `dv` at 1. -/
theorem digestStableWhileValid : Obligations.DigestStableWhileValid := by
  intro s u hI hd h hu
  obtain ⟨hp, -⟩ := hI.valid hd
  cases stepEffect_of_step h with
  | nop b ha => exact ⟨rfl, hp⟩
  | reset | init | blockOpen | blockClosed | rsvd3 => cases hu
  | sched b hr hp' | ldreg b hr hp' | round b hr hp' | feed b hr hp' | halt b hr hp' => simp [hp] at hp'

end Sys2Proof.Proofs
end

section
/-! Invariants 6 to 8 of 10_state.md section 10: no step reads an element that holds no value. Two states that agree on
the elements that hold one agree on the outputs, and step to two such states. -/

namespace Sys2Proof.Proofs
open Sys2Proof.Machine Sys2Proof.Laws

/-! ### The schedule arrays below an index -/

/-- An entry is derived from entries below its index. -/
theorem schedEntry_congr {w v : Schedule} {i : Fin 64} (hi : 16 ≤ i.val)
    (h : ∀ j : Fin 64, j.val < i.val → w[j] = v[j]) : schedEntry w i = schedEntry v i := by
  have earlier (k : Nat) (hk : k < i.val) : w[k] = v[k] := h ⟨k, by omega⟩ hk
  simp (disch := omega) only [schedEntry, earlier]

/-- One entry derived in each of two arrays that agree below its index: they agree one index further. -/
theorem set_schedEntry_congr {w v : Schedule} {i : Fin 64} (hi : 16 ≤ i.val)
    (h : ∀ j : Fin 64, j.val < i.val → w[j] = v[j]) (j : Fin 64) (hj : j.val < i.val + 1) :
    (w.set i (schedEntry w i))[j] = (v.set i (schedEntry v i))[j] := by
  simp only [Fin.getElem_fin, Vector.getElem_set]
  split
  · exact schedEntry_congr hi h
  · exact h j (by omega)

theorem loadBlock_congr (b : Block) (w v : Schedule) (j : Fin 64) (hj : j.val < 16) :
    (loadBlock b w)[j] = (loadBlock b v)[j] :=
  (loadBlock_low b w j.val hj).trans (loadBlock_low b v j.val hj).symm

/-! ### What the two states show -/

theorem readDigest_eq_of_sameDefined {s u : State} (hI : Inv s) (h : SameDefined s u) : readDigest s = readDigest u := by
  unfold readDigest digestValid digestOut
  rw [← h.dv]
  by_cases hd : s.dv = true
  · rw [h.hs (hI.valid hd).2]
  · rw [if_neg hd, if_neg hd]

/-! ### One operation on the two states

Each operation writes from elements that hold a value in its phase, so the two states write the same. -/

theorem sameDefined_init {s u : State} (h : SameDefined s u) :
    SameDefined (setPc .idle 0 (flagsInit (writeHs romIV s))) (setPc .idle 0 (flagsInit (writeHs romIV u))) := by
  constructor <;> simp [h.fcode, h.pending]

theorem sameDefined_raise {s u : State} (c : FaultCause) (h : SameDefined s u) :
    SameDefined (raise c s) (raise c u) := by
  constructor <;> simp [h.pending]

theorem sameDefined_resetEvent {s u : State} (h : s.pending = u.pending) :
    SameDefined (resetEvent s) (resetEvent u) := by
  constructor <;> simp [h]

/-- BLOCK loads the entries that hold a value in (SCHED, 16) from its port. -/
theorem sameDefined_blockOpen {s u : State} (h : SameDefined s u) (hb : s.blockIn = u.blockIn) :
    SameDefined (setPc .sched 16 (flagsBlock (ldblk s))) (setPc .sched 16 (flagsBlock (ldblk u))) := by
  have loaded := loadBlock_congr u.blockIn s.w u.w
  constructor <;> simp [ldblk, h.isOpen, h.fcode, h.pending, hb]
  · exact fun ho => h.hs (h.isOpen.trans ho)
  · exact loaded

/-- The counters agree, so both states stay in the loop or both leave it. -/
theorem sameDefined_advance {here after : Phase} {s u : State} (ht : s.t = u.t)
    (last : s.t = 63 → SameDefined (setPc after 0 s) (setPc after 0 u))
    (next : s.t ≠ 63 → SameDefined (setPc here (s.t + 1) s) (setPc here (s.t + 1) u)) :
    SameDefined (advance here after s) (advance here after u) := by
  by_cases h63 : s.t = 63
  · rw [advance_of_last _ _ h63, advance_of_last _ _ (ht ▸ h63)]
    exact last h63
  · rw [advance_of_not_last _ _ h63, advance_of_not_last _ _ (ht ▸ h63), ← ht]
    exact next h63

/-- SCHED derives its entry from entries below the index; after index 63 every entry holds a value. -/
theorem sameDefined_sched {s u : State} (hp : s.phase = .sched) (ht : 16 ≤ s.t.toNat) (h : SameDefined s u) :
    SameDefined (advance .sched .ldreg (writeW (s.w.set (indexOf s.t) (schedEntry s.w (indexOf s.t))) s))
      (advance .sched .ldreg (writeW (u.w.set (indexOf u.t) (schedEntry u.w (indexOf u.t))) u)) := by
  have written := set_schedEntry_congr (i := indexOf s.t) ht (h.wBelow hp)
  simp only [← h.t]
  refine sameDefined_advance h.t (fun (h63 : s.t = 63) => ?_) fun h63 => ?_
  · have full : s.w.set (indexOf s.t) (schedEntry s.w (indexOf s.t)) =
        u.w.set (indexOf s.t) (schedEntry u.w (indexOf s.t)) :=
      Vector.ext fun j hj => written ⟨j, hj⟩ (by simpa [h63] using hj)
    rw [full]
    constructor <;> simp [h.isOpen, h.dv, h.fcode, h.pending]
    exact fun ho => h.hs (h.isOpen.trans ho)
  · have below (i : Fin 64) (hi : i.val < (s.t + 1).toNat) := written i ((toNat_succ_of_not_last h63).1 ▸ hi)
    constructor <;> simp [h.isOpen, h.dv, h.fcode, h.pending]
    · exact fun ho => h.hs (h.isOpen.trans ho)
    · simpa using below

theorem sameDefined_ldreg {s u : State} (hp : s.phase = .ldreg) (ho : s.isOpen = true) (h : SameDefined s u) :
    SameDefined (setPc .round 0 (writeWr s.hs s)) (setPc .round 0 (writeWr u.hs u)) := by
  constructor <;> simp [h.isOpen, h.dv, h.fcode, h.pending, h.hs ho, h.wAll (.inl hp)]

theorem sameDefined_round {s u : State} (hp : s.phase = .round) (ho : s.isOpen = true) (h : SameDefined s u) :
    SameDefined (advance .round .feed (writeWr (roundRegs s.wr romK[indexOf s.t] s.w[indexOf s.t]) s))
      (advance .round .feed (writeWr (roundRegs u.wr romK[indexOf u.t] u.w[indexOf u.t]) u)) := by
  have hw : s.w = u.w := h.wAll (.inr (.inl hp))
  have mixed : roundRegs s.wr romK[indexOf s.t] s.w[indexOf s.t] = roundRegs u.wr romK[indexOf u.t] u.w[indexOf u.t] := by
    rw [hw, h.wr (.inl hp)]
    simp only [h.t]
  rw [mixed]
  refine sameDefined_advance h.t (fun _ => ?_) fun _ => ?_ <;>
    constructor <;> simp [h.isOpen, h.dv, h.fcode, h.pending, h.hs ho, hw]

theorem sameDefined_feed {s u : State} (hp : s.phase = .feed) (ho : s.isOpen = true) (h : SameDefined s u) :
    SameDefined (setPc .idle 0 (flagsFeed (writeHs (feedForward s.hs s.wr) s)))
      (setPc .idle 0 (flagsFeed (writeHs (feedForward u.hs u.wr) u))) := by
  constructor <;> simp [h.isOpen, h.fcode, h.pending, h.hs ho, h.wr (.inr hp)]

/-- Only BLOCK reads the block port, so the ports need not agree for the other operations. -/
theorem sameDefined_exec {s u : State} {c : CmdCode} (hI : Inv s) (h : SameDefined s u)
    (hb : c = cmdBlock → s.blockIn = u.blockIn) :
    ∃ s' u', exec (selected s.phase c) s = .next s' ∧ exec (selected u.phase c) u = .next u' ∧ SameDefined s' u' := by
  rw [← h.phase]
  cases hp : s.phase with
  | idle =>
    obtain rfl | rfl | rfl | rfl := cmdCode_cases c
    · exact ⟨s, u, rfl, rfl, h⟩
    · exact ⟨_, _, exec_init s, exec_init u, sameDefined_init h⟩
    · cases ho : s.isOpen with
      | true =>
        exact ⟨_, _, exec_block_open ho, exec_block_open (h.isOpen ▸ ho), sameDefined_blockOpen h (hb rfl)⟩
      | false => exact ⟨_, _, exec_block_closed ho, exec_block_closed (h.isOpen ▸ ho), sameDefined_raise _ h⟩
    · exact ⟨_, _, exec_rsvd3 s, exec_rsvd3 u, sameDefined_raise _ h⟩
  | sched =>
    have ht := hI.schedIndex hp
    exact ⟨_, _, exec_sched c ht, exec_sched c (h.t ▸ ht), sameDefined_sched hp ht h⟩
  | ldreg => exact ⟨_, _, exec_ldreg c s, exec_ldreg c u, sameDefined_ldreg hp (hI.inBlock (.inr (.inl hp))).1 h⟩
  | round =>
    exact ⟨_, _, exec_round c s, exec_round c u, sameDefined_round hp (hI.inBlock (.inr (.inr (.inl hp)))).1 h⟩
  | feed => exact ⟨_, _, exec_feed c s, exec_feed c u, sameDefined_feed hp (hI.inBlock (.inr (.inr (.inr hp)))).1 h⟩
  | fault => exact ⟨s, u, rfl, rfl, h⟩

/-! ### One step of the two states -/

theorem sameDefined_drivePorts {s u : State} (h : SameDefined s u) (c : CmdCode) (b : Block) (es : List HostEvent) :
    SameDefined (drivePorts c b { s with pending := es }) (drivePorts c b { u with pending := es }) :=
  ⟨h.phase, h.t, h.isOpen, h.dv, h.fcode, rfl, h.hs, h.wBelow, h.wAll, h.wr⟩

theorem sameDefined_step {s u : State} (hI : Inv s) (h : SameDefined s u) :
    ∃ s' u', step s = .next s' ∧ step u = .next u' ∧ SameDefined s' u' := by
  cases hs : s.pending with
  | nil =>
    rw [step_of_silent hs, step_of_silent (h.pending.symm.trans hs)]
    have hI' : Inv (drivePorts cmdNop s.blockIn s) := inv_of_elements_eq (s := s) rfl hI
    have h' : SameDefined (drivePorts cmdNop s.blockIn s) (drivePorts cmdNop u.blockIn u) :=
      ⟨h.phase, h.t, h.isOpen, h.dv, h.fcode, h.pending, h.hs, h.wBelow, h.wAll, h.wr⟩
    exact sameDefined_exec hI' h' fun hc => absurd hc (by decide)
  | cons e es =>
    have hu : u.pending = e :: es := h.pending.symm.trans hs
    cases e with
    | reset => exact ⟨_, _, step_of_reset hs, step_of_reset hu, sameDefined_resetEvent rfl⟩
    | drive c b =>
      rw [step_of_drive hs, step_of_drive hu]
      have hI' : Inv (drivePorts c b { s with pending := es }) := inv_of_elements_eq (s := s) rfl hI
      exact sameDefined_exec hI' (sameDefined_drivePorts h c b es) fun _ => rfl

/-- Settles O40: the outputs are functions of elements the two states agree on, and a step is the same operation on
both. -/
theorem unstatedValuesStayHidden : Obligations.UnstatedValuesStayHidden := fun s u hI h =>
  ⟨⟨by simp [ready, h.phase], h.dv, by simp [faultOut, h.phase], h.fcode, readDigest_eq_of_sameDefined hI h⟩,
    sameDefined_step hI h⟩

end Sys2Proof.Proofs
end

section
/-! A block in progress (R123, R133, R150, R201). What `W`, `wr` and `HS` will hold when the block is done is a function
of the state it is in (`finalW`, `finalWr`), and every step of the block keeps it; `busySteps` counts the steps left. So
the three facts about the whole operation are read off one lemma about one step. -/

namespace Sys2Proof.Proofs
open Sys2Proof.Machine Sys2Proof.Laws

/-! ### A counted loop from an index on -/

/-- The body `f` of a counted loop at the indices from `i` to 63, in order (R29). -/
def runFrom {α : Type} (f : Fin 64 → α → α) (i : Nat) (x : α) : α :=
  ((List.finRange 64).drop i).foldl (fun y j => f j y) x

theorem runFrom_of_lt {α : Type} (f : Fin 64 → α → α) {i : Nat} (hi : i < 64) (x : α) :
    runFrom f i x = runFrom f (i + 1) (f ⟨i, hi⟩ x) := by
  rw [runFrom, List.drop_eq_getElem_cons (by simpa using hi), List.foldl_cons, runFrom]
  simp

theorem runFrom_end {α : Type} (f : Fin 64 → α → α) (x : α) : runFrom f 64 x = x := by
  rw [runFrom, List.drop_eq_nil_of_le (by simp), List.foldl_nil]

/-- A sequence made by the loop's body, one index after the other from `i` on, ends where the loop ends. -/
theorem runFrom_eq_of_succ {α : Type} {f : Fin 64 → α → α} {g : Nat → α} {i n : Nat} (hn : i + n = 64)
    (hg : ∀ k, (h : i + k < 64) → g (k + 1) = f ⟨i + k, h⟩ (g k)) : runFrom f i (g 0) = g n := by
  have along (k : Nat) (hk : i + k ≤ 64) : runFrom f (i + k) (g k) = runFrom f i (g 0) := by
    induction k with
    | zero => rfl
    | succ k ih =>
      rw [hg k hk, ← ih (by omega), runFrom_of_lt f (i := i + k) hk]
      rfl
  rw [← along n hn.le, hn, runFrom_end]

/-! ### The two loops of a block -/

/-- The schedule after SCHED at index `i` (R122). -/
def deriveEntry (i : Fin 64) (w : Schedule) : Schedule := w.set i (schedEntry w i)

/-- The registers after ROUND at index `i` (R132). -/
def mixRound (w : Schedule) (i : Fin 64) (r : State8) : State8 := roundRegs r romK[i] w[i]

theorem runFrom_deriveEntry (w : Schedule) : runFrom deriveEntry 16 w = expandLoop w 48 :=
  runFrom_eq_of_succ (g := expandLoop w) rfl fun k h => expandLoop_succ w k h

theorem runFrom_mixRound (w : Schedule) (r : State8) : runFrom (mixRound w) 0 r = compressWords w r :=
  runFrom_eq_of_succ (g := compressLoop w r) rfl fun k h => by
    simpa [mixRound] using compressLoop_succ w r k (by simpa using h)

/-- Derived entries depend on the entries below 16 only. -/
theorem expandLoop_congr {w v : Schedule} (h : ∀ j : Fin 64, j.val < 16 → w[j] = v[j]) {n : Nat} (hn : n ≤ 48)
    (j : Fin 64) (hj : j.val < 16 + n) : (expandLoop w n)[j] = (expandLoop v n)[j] := by
  induction n generalizing j with
  | zero => exact h j hj
  | succ n ih =>
    rw [expandLoop_succ w n (by omega), expandLoop_succ v n (by omega)]
    exact set_schedEntry_congr (i := ⟨16 + n, by omega⟩) (Nat.le_add_right 16 n) (ih (by omega)) j hj

/-- What LDBLK leaves above index 15 reaches no entry of `expand` (R120, R121). -/
theorem runFrom_loadBlock (b : Block) (w : Schedule) : runFrom deriveEntry 16 (loadBlock b w) = expandBlock b := by
  rw [runFrom_deriveEntry]
  exact Vector.ext fun j hj => expandLoop_congr (loadBlock_congr b w _) le_rfl ⟨j, hj⟩ hj

/-! ### What a block in progress will have made -/

/-- The schedule when SCHED is done. -/
def finalW (s : State) : Schedule := if s.phase = .sched then runFrom deriveEntry s.t.toNat s.w else s.w

/-- The working registers when ROUND is done. -/
def finalWr (s : State) : State8 :=
  match s.phase with
  | .sched | .ldreg => compressWords (finalW s) s.hs
  | .round => runFrom (mixRound s.w) s.t.toNat s.wr
  | .feed | .idle | .fault => s.wr

theorem finalW_of_ne_sched {s : State} (h : s.phase ≠ .sched) : finalW s = s.w := if_neg h

theorem finalW_of_sched {s : State} (h : s.phase = .sched) : finalW s = runFrom deriveEntry s.t.toNat s.w := if_pos h

theorem finalWr_of_sched {s : State} (h : s.phase = .sched) : finalWr s = compressWords (finalW s) s.hs := by
  simp only [finalWr, h]

theorem finalWr_of_ldreg {s : State} (h : s.phase = .ldreg) : finalWr s = compressWords s.w s.hs := by
  simp only [finalWr, finalW, h]
  rfl

theorem finalWr_of_round {s : State} (h : s.phase = .round) : finalWr s = runFrom (mixRound s.w) s.t.toNat s.wr := by
  simp only [finalWr, h]

theorem finalWr_of_feed {s : State} (h : s.phase = .feed) : finalWr s = s.wr := by
  simp only [finalWr, h]

theorem busySteps_of_sched {s : State} (h : s.phase = .sched) : busySteps s = 64 - s.t.toNat + 66 := by
  simp only [busySteps, h]

theorem busySteps_of_ldreg {s : State} (h : s.phase = .ldreg) : busySteps s = 66 := by
  simp only [busySteps, h]

theorem busySteps_of_round {s : State} (h : s.phase = .round) : busySteps s = 64 - s.t.toNat + 1 := by
  simp only [busySteps, h]

theorem busySteps_of_feed {s : State} (h : s.phase = .feed) : busySteps s = 1 := by
  simp only [busySteps, h]

/-! ### One step of the block -/

/-- The core is at a position of a block that R37 allows. -/
structure Working (s : State) : Prop where
  busy  : busy s
  index : s.phase = .sched → 16 ≤ s.t.toNat
  zero  : s.phase ≠ .sched → s.phase ≠ .round → s.t = 0

/-- `u` is `k` steps further in the same block than `s`: what the block will have made is the same, and `HS` is not
written yet. -/
structure Worked (k : Nat) (s u : State) : Prop where
  working : Working u
  left    : busySteps u + k = busySteps s
  hs      : u.hs = s.hs
  w       : finalW u = finalW s
  wr      : finalWr u = finalWr s

/-- `u` is the state after the block: FEED has added what the block made (R147, R150). -/
structure Absorbed (s u : State) : Prop where
  phase : u.phase = .idle
  t     : u.t = 0
  dv    : u.dv = true
  hs    : u.hs = feedForward s.hs (finalWr s)

theorem Worked.trans {k n : Nat} {s u v : State} (h : Worked k s u) (h' : Worked n u v) :
    Worked (k + n) s v where
  working := h'.working
  left := by rw [← h.left, ← h'.left]; omega
  hs := h'.hs.trans h.hs
  w := h'.w.trans h.w
  wr := h'.wr.trans h.wr

theorem Working.refl {s : State} (h : Working s) : Worked 0 s s := ⟨h, rfl, rfl, rfl, rfl⟩

/-- SCHED: one derived entry fewer to come; after index 63 the schedule is complete. -/
theorem worked_sched {s : State} (hp : s.phase = .sched) (ht : 16 ≤ s.t.toNat) (b : Block) :
    Worked 1 s (advance .sched .ldreg (writeW (deriveEntry (indexOf s.t) s.w) (sampledState b s))) := by
  have derived : finalW s = runFrom deriveEntry (s.t.toNat + 1) (deriveEntry (indexOf s.t) s.w) :=
    (finalW_of_sched hp).trans (runFrom_of_lt _ s.t.isLt _)
  generalize deriveEntry (indexOf s.t) s.w = v at derived
  by_cases h63 : s.t = 63
  · have last : s.t.toNat + 1 = 64 := by simp [h63]
    rw [last, runFrom_end] at derived
    rw [advance_of_last _ _ (s := writeW v (sampledState b s)) h63]
    refine ⟨⟨.inr (.inl rfl), by simp, by simp⟩, ?_, rfl, ?_, ?_⟩
    · rw [busySteps_of_sched hp, busySteps_of_ldreg rfl]
      omega
    · rw [finalW_of_ne_sched (by simp), derived]
      rfl
    · rw [finalWr_of_ldreg rfl, finalWr_of_sched hp, derived]
      rfl
  · obtain ⟨hsucc, h62⟩ := toNat_succ_of_not_last h63
    rw [advance_of_not_last _ _ (s := writeW v (sampledState b s)) h63, writeW_t, drivePorts_t]
    have same : finalW (setPc .sched (s.t + 1) (writeW v (sampledState b s))) = finalW s := by
      rw [finalW_of_sched rfl, derived, ← hsucc]
      rfl
    refine ⟨⟨.inl rfl, fun _ => ?_, by simp⟩, ?_, rfl, same, ?_⟩
    · exact hsucc ▸ Nat.le_succ_of_le ht
    · rw [busySteps_of_sched hp, busySteps_of_sched rfl, setPc_t, hsucc]
      omega
    · rw [finalWr_of_sched rfl, same, finalWr_of_sched hp]
      rfl

theorem worked_ldreg {s : State} (hp : s.phase = .ldreg) (b : Block) :
    Worked 1 s (setPc .round 0 (writeWr s.hs (sampledState b s))) := by
  have left : busySteps (setPc .round 0 (writeWr s.hs (sampledState b s))) + 1 = busySteps s := by
    rw [busySteps_of_ldreg hp, busySteps_of_round rfl]
    rfl
  refine ⟨⟨.inr (.inr (.inl rfl)), by simp, by simp⟩, left, rfl, ?_, ?_⟩
  · rw [finalW_of_ne_sched (by simp), finalW_of_ne_sched (by simp [hp])]
    rfl
  · rw [finalWr_of_round rfl, finalWr_of_ldreg hp, ← runFrom_mixRound]
    rfl

/-- ROUND: one round fewer to come; after index 63 the registers are those of `compress`. -/
theorem worked_round {s : State} (hp : s.phase = .round) (b : Block) :
    Worked 1 s (advance .round .feed (writeWr (mixRound s.w (indexOf s.t) s.wr) (sampledState b s))) := by
  have mixed : finalWr s = runFrom (mixRound s.w) (s.t.toNat + 1) (mixRound s.w (indexOf s.t) s.wr) :=
    (finalWr_of_round hp).trans (runFrom_of_lt _ s.t.isLt _)
  have hw : finalW s = s.w := finalW_of_ne_sched (by simp [hp])
  generalize mixRound s.w (indexOf s.t) s.wr = r at mixed
  by_cases h63 : s.t = 63
  · have last : s.t.toNat + 1 = 64 := by simp [h63]
    rw [last, runFrom_end] at mixed
    rw [advance_of_last _ _ (s := writeWr r (sampledState b s)) h63]
    refine ⟨⟨.inr (.inr (.inr rfl)), by simp, by simp⟩, ?_, rfl, ?_, ?_⟩
    · rw [busySteps_of_round hp, busySteps_of_feed rfl]
      omega
    · rw [finalW_of_ne_sched (by simp), hw]
      rfl
    · rw [finalWr_of_feed rfl, mixed]
      rfl
  · obtain ⟨hsucc, h62⟩ := toNat_succ_of_not_last h63
    rw [advance_of_not_last _ _ (s := writeWr r (sampledState b s)) h63, writeWr_t, drivePorts_t]
    refine ⟨⟨.inr (.inr (.inl rfl)), by simp, by simp⟩, ?_, rfl, ?_, ?_⟩
    · rw [busySteps_of_round hp, busySteps_of_round rfl, setPc_t, hsucc]
      omega
    · rw [finalW_of_ne_sched (by simp), hw]
      rfl
    · rw [finalWr_of_round rfl, mixed, ← hsucc]
      rfl

/-- A step that is not the block's last one is one step of its work. -/
theorem worked_step {s : State} (hs : Working s) (hr : resetNext s = false) (hleft : 1 < busySteps s) :
    ∃ u, step s = .next u ∧ Worked 1 s u := by
  obtain ⟨b, hstep⟩ := step_of_no_reset hr
  rw [hstep]
  obtain hp | hp | hp | hp := hs.busy <;> rw [hp, selected]
  · exact ⟨_, exec_sched (s := sampledState b s) _ (hs.index hp), worked_sched hp (hs.index hp) b⟩
  · exact ⟨_, exec_ldreg _ _, worked_ldreg hp b⟩
  · exact ⟨_, exec_round _ _, worked_round hp b⟩
  · rw [busySteps_of_feed hp] at hleft
    omega

/-- FEED is the block's last step. -/
theorem phase_of_last_step {s : State} (hs : Working s) (hleft : busySteps s ≤ 1) : s.phase = .feed := by
  have ht := s.t.isLt
  obtain hp | hp | hp | hp := hs.busy
  · rw [busySteps_of_sched hp] at hleft
    omega
  · rw [busySteps_of_ldreg hp] at hleft
    omega
  · rw [busySteps_of_round hp] at hleft
    omega
  · exact hp

/-- Between SCHED and ROUND there are 66 steps left. -/
theorem phase_of_busySteps_eq {s : State} (hs : Working s) (hleft : busySteps s = 66) : s.phase = .ldreg := by
  have ht := s.t.isLt
  obtain hp | hp | hp | hp := hs.busy
  · rw [busySteps_of_sched hp] at hleft
    omega
  · exact hp
  · rw [busySteps_of_round hp] at hleft
    omega
  · rw [busySteps_of_feed hp] at hleft
    omega

theorem busySteps_bounds {s : State} (hs : Working s) : 0 < busySteps s ∧ busySteps s ≤ 114 := by
  have ht := s.t.isLt
  obtain hp | hp | hp | hp := hs.busy
  · have h16 := hs.index hp
    rw [busySteps_of_sched hp]
    omega
  · simp only [busySteps_of_ldreg hp]
    omega
  · rw [busySteps_of_round hp]
    omega
  · simp only [busySteps_of_feed hp]
    omega

theorem absorbed_step {s : State} (hp : s.phase = .feed) (hr : resetNext s = false) :
    ∃ u, step s = .next u ∧ Absorbed s u := by
  obtain ⟨b, hstep⟩ := step_of_no_reset hr
  rw [hstep, hp, selected]
  refine ⟨_, exec_feed _ _, rfl, rfl, rfl, ?_⟩
  rw [finalWr_of_feed hp]
  rfl

/-! ### Many steps of the block -/

/-- The moves the host has made are gone, whichever transition took them. -/
theorem pending_of_step {s u : State} (h : step s = .next u) : u.pending = s.pending.tail := by
  cases stepEffect_of_step h with
  | blockOpen b ha ho => rfl
  | _ => simp

theorem noReset_of_step {n : Nat} {s u : State} (hn : noReset (n + 1) s) (h : step s = .next u) : noReset n u := by
  have taken : noReset n (sampledState s.blockIn s) := (noReset_succ hn s.blockIn).2
  rwa [noReset, drivePorts_pending, ← pending_of_step h] at taken

theorem pending_of_steps {n : Nat} {s u : State} (h : steps n s = .next u) : u.pending = s.pending.drop n := by
  induction n generalizing s with
  | zero => cases h; rfl
  | succ n ih =>
    cases hv : step s with
    | next v =>
      rw [steps_succ_of_next n hv] at h
      rw [ih h, pending_of_step hv, List.drop_tail]
    | fault r => simp [steps, hv] at h
    | refused r => simp [steps, hv] at h

theorem worked_steps {k : Nat} {s : State} (hs : Working s) (hk : k < busySteps s) (hn : noReset k s) :
    ∃ u, steps k s = .next u ∧ Worked k s u := by
  induction k generalizing s with
  | zero => exact ⟨s, rfl, hs.refl⟩
  | succ k ih =>
    obtain ⟨u, hu, one⟩ := worked_step hs (noReset_succ hn s.blockIn).1 (by omega)
    have left := one.left
    obtain ⟨v, hv, more⟩ := ih one.working (by omega) (noReset_of_step hn hu)
    exact ⟨v, (steps_succ_of_next k hu).trans hv, Nat.add_comm 1 k ▸ one.trans more⟩

theorem noReset_of_steps {k n : Nat} {s u : State} (hn : noReset (k + n) s) (h : steps k s = .next u) : noReset n u := by
  rw [noReset, pending_of_steps h]
  intro e he
  exact hn e (List.mem_of_mem_drop (i := k) (by rwa [List.drop_take, Nat.add_sub_cancel_left]))

theorem noReset_mono {k n : Nat} {s : State} (hkn : k ≤ n) (hn : noReset n s) : noReset k s := fun e he =>
  hn e ((List.take_subset_take_left _ hkn) he)

theorem Absorbed.of_worked {k : Nat} {s u v : State} (h : Worked k s u) (hv : Absorbed u v) : Absorbed s v :=
  ⟨hv.phase, hv.t, hv.dv, by rw [hv.hs, h.hs, h.wr]⟩

/-- After `busySteps` steps the block is done, whatever stands on the ports. -/
theorem absorbed_steps {s : State} (hs : Working s) (hn : noReset (busySteps s) s) :
    ∃ u, steps (busySteps s) s = .next u ∧ Absorbed s u := by
  obtain ⟨k, hk⟩ : ∃ k, busySteps s = k + 1 := Nat.exists_eq_succ_of_ne_zero (busySteps_bounds hs).1.ne'
  rw [hk] at hn ⊢
  obtain ⟨u, hu, worked⟩ := worked_steps hs (k := k) (by omega) (noReset_mono k.le_succ hn)
  have left := worked.left
  have hr := (noReset_succ (noReset_of_steps (k := k) (n := 1) hn hu) u.blockIn).1
  obtain ⟨v, hv, absorbed⟩ := absorbed_step (phase_of_last_step worked.working (by omega)) hr
  exact ⟨v, (steps_add hu).trans (steps_succ_of_next 0 hv), absorbed.of_worked worked⟩

/-! ### The accepting step -/

/-- `u` is the state after a core with `HS` of `s` has accepted BLOCK with `b` (R144). -/
structure Accepted (b : Block) (s u : State) : Prop where
  working : Working u
  left    : busySteps u = 114
  hs      : u.hs = s.hs
  w       : finalW u = expandBlock b
  wr      : finalWr u = compressWords (expandBlock b) s.hs

theorem accepted_of_block {s : State} {b : Block} {es : List HostEvent} (hp : s.phase = .idle) (ho : s.isOpen = true)
    (hes : s.pending = .drive cmdBlock b :: es) : ∃ u, step s = .next u ∧ Accepted b s u := by
  have hi : selected s.phase cmdBlock = .block := by rw [hp]; decide
  rw [step_of_drive hes, hi]
  generalize hv : drivePorts cmdBlock b { s with pending := es } = v
  obtain ⟨hvo, hvs, hvb⟩ : v.isOpen = true ∧ v.hs = s.hs ∧ v.blockIn = b := by subst hv; exact ⟨ho, rfl, rfl⟩
  rw [exec_block_open hvo]
  have w : finalW (setPc .sched 16 (flagsBlock (ldblk v))) = expandBlock b := by
    rw [finalW_of_sched rfl, setPc_w, flagsBlock_w, ldblk_w, hvb, setPc_t]
    exact runFrom_loadBlock b v.w
  have hs : (setPc .sched 16 (flagsBlock (ldblk v))).hs = s.hs := by
    rw [setPc_hs, flagsBlock_hs, ldblk, writeW_hs, hvs]
  refine ⟨_, rfl, ⟨.inl rfl, by simp, by simp⟩, ?_, hs, w, ?_⟩
  · rw [busySteps_of_sched rfl, setPc_t]
    rfl
  · rw [finalWr_of_sched rfl, w, hs]

/-! ### The facts about the whole operation -/

theorem expand_toList (b : Block) : expand b.toList = .ok (expandBlock b) := expand_eq_ok_iff.mpr ⟨b, rfl, rfl⟩

/-- Settles O44: with 66 steps left the position is (LDREG, 0), where `finalW` is `W`. -/
theorem schedStepsComputeExpand : Obligations.SchedStepsComputeExpand := by
  intro s b es hp ho hes hn
  obtain ⟨u, hu, accepted⟩ := accepted_of_block hp ho hes
  have hn : noReset 48 u := by rw [noReset, pending_of_step hu, hes]; exact hn
  obtain ⟨v, hv, worked⟩ := worked_steps accepted.working (k := 48) (by rw [accepted.left]; decide) hn
  have left : busySteps v = 66 := by have := worked.left; have := accepted.left; omega
  have hpv : v.phase = .ldreg := phase_of_busySteps_eq worked.working left
  have ht : v.t = 0 := worked.working.zero (by simp [hpv]) (by simp [hpv])
  have hw : v.w = expandBlock b := by
    rw [← finalW_of_ne_sched (s := v) (by simp [hpv]), worked.w, accepted.w]
  exact ⟨v, (steps_succ_of_next 48 hu).trans hv, hpv, ht, by rw [hw, expand_toList], worked.hs.trans accepted.hs⟩

/-- Settles O45: LDREG by `worked_ldreg`, the rounds by `worked_steps`; with one step left the position is (FEED, 0),
where `finalWr` is `wr`. -/
theorem roundStepsComputeCompress : Obligations.RoundStepsComputeCompress := by
  intro s hp hn
  obtain ⟨b, hstep⟩ := step_of_no_reset (noReset_succ hn s.blockIn).1
  rw [hp, selected, exec_ldreg] at hstep
  have first := worked_ldreg hp b
  have left : busySteps s = 66 := busySteps_of_ldreg hp
  have firstLeft := first.left
  obtain ⟨v, hv, more⟩ := worked_steps first.working (k := 64) (by omega) (noReset_of_step hn hstep)
  have all := first.trans more
  have hpv : v.phase = .feed := phase_of_last_step all.working (by have := all.left; omega)
  have ht : v.t = 0 := all.working.zero (by simp [hpv]) (by simp [hpv])
  have hw : v.w = s.w := by
    rw [← finalW_of_ne_sched (s := v) (by simp [hpv]), all.w, finalW_of_ne_sched (by simp [hp])]
  have hwr : v.wr = compressWords s.w s.hs := by
    rw [← finalWr_of_feed hpv, all.wr, finalWr_of_ldreg hp]
  exact ⟨v, (steps_succ_of_next 64 hstep).trans hv, hpv, ht, by rw [hwr, compress_toList], all.hs, hw⟩

theorem inv_of_idle_open {s : State} (hp : s.phase = .idle) (ht : s.t = 0) (ho : s.isOpen = true) (hf : s.fcode = 0) :
    Inv s := by
  constructor <;> simp [hp, ht, ho, hf, busy]

/-- What the outputs show at a position of a block (R33). -/
theorem outputs_of_busy {s : State} (hI : Inv s) (hb : busy s) :
    ready s = false ∧ digestValid s = false ∧ faultOut s = false := by
  obtain ⟨-, hd, -⟩ := hI.inBlock hb
  refine ⟨?_, hd, ?_⟩ <;> obtain hp | hp | hp | hp := hb <;> simp [ready, faultOut, hp]

theorem fcode_of_idle {s : State} (hI : Inv s) (hp : s.phase = .idle) : s.fcode = 0 := by
  by_contra hf
  simp [hI.faultIff.mpr hf] at hp

/-- Settles O46: the accepting step by `accepted_of_block`, the other 114 by `absorbed_steps` as a whole and by
`worked_steps` in between; the flags by the invariants. -/
theorem blockOperationAbsorbs : Obligations.BlockOperationAbsorbs := by
  intro s b es hp ht ho hf hes hn
  have hI : Inv s := inv_of_idle_open hp ht ho hf
  obtain ⟨u, hu, accepted⟩ := accepted_of_block hp ho hes
  have hIu : Inv u := inv_of_step hI hu
  have hpu : u.pending = es := by rw [pending_of_step hu, hes, List.tail_cons]
  have hnu : noReset 114 u := by rw [noReset, hpu]; exact hn
  refine ⟨?_, fun k hk1 hk => ?_⟩
  · obtain ⟨v, hv, done⟩ := absorbed_steps accepted.working (by rw [accepted.left]; exact hnu)
    rw [accepted.left] at hv
    have hIv : Inv v := inv_of_steps hIu hv
    refine ⟨v, _, _, (steps_succ_of_next 114 hu).trans hv, expand_toList b, compress_toList _ _, fun j => ?_, done.phase,
      done.t, (hIv.valid done.dv).2, done.dv, fcode_of_idle hIv done.phase, by rw [pending_of_steps hv, hpu]⟩
    rw [done.hs, accepted.hs, accepted.wr]
    exact feedForward_get _ _ j.val j.isLt
  · obtain ⟨n, rfl⟩ := Nat.exists_eq_add_of_le' hk1
    have hk : n + 1 < 115 := hk
    obtain ⟨v, hv, worked⟩ := worked_steps accepted.working (k := n) (by rw [accepted.left]; omega)
      (noReset_mono (by omega) hnu)
    obtain ⟨hready, hdv, hfault⟩ := outputs_of_busy (inv_of_steps hIu hv) worked.working.busy
    exact ⟨v, (steps_succ_of_next n hu).trans hv, hready, hdv, hfault, worked.hs.trans accepted.hs⟩

theorem working_of_inv {s : State} (hI : Inv s) (hb : busy s) : Working s := ⟨hb, hI.schedIndex, hI.zeroIndex⟩

/-- Settles O47: `busySteps` is the number of steps. -/
theorem blockReachesReady : Obligations.BlockReachesReady := by
  intro s hI hb hn
  have working := working_of_inv hI hb
  have bound := (busySteps_bounds working).2
  obtain ⟨u, hu, done⟩ := absorbed_steps working (noReset_mono bound hn)
  refine ⟨busySteps s, u, bound, hu, by simp [ready, done.phase], done.dv, fun k hk => ?_⟩
  obtain ⟨v, hv, worked⟩ := worked_steps working hk (noReset_mono (by omega) hn)
  exact ⟨v, hv, (outputs_of_busy (inv_of_steps hI hv) worked.working.busy).1⟩

end Sys2Proof.Proofs
end

section
/-! The host's functions (41_padder_host.md R113, R115, 44_accumulator.md R140): the bytes of a padded message, the
digits of a digest, and `hash` as a chain over the blocks of the padded message. -/

namespace Sys2Proof.Proofs
open Sys2Proof.Machine Sys2Proof.Laws

/-! ### Padding (R113) -/

theorem pad_length {m p : List Byte} (h : pad m = .ok p) : p.length = m.length + zeroCount m.length + 9 := by
  obtain ⟨-, rfl⟩ := pad_eq_ok_iff.mp h
  simp only [List.length_append, List.length_replicate, List.length_singleton, len64Be_length]
  omega

/-- The whole number of blocks, the least one that has room for the 0x80 byte and the length field. -/
theorem pad_blocks {m p : List Byte} (h : pad m = .ok p) : p.length / 64 = (m.length + 8) / 64 + 1 := by
  have hmod := zeroCount_mod m.length
  have hlt := zeroCount_lt m.length
  rw [pad_length h]
  omega

/-- The bytes of the padding, place by place. -/
theorem pad_bytes {m p : List Byte} (h : pad m = .ok p) :
    p.take m.length = m ∧ p[m.length]? = some 0x80#8 ∧
    (∀ k, m.length + 1 ≤ k → k + 8 < p.length → p[k]? = some 0x00#8) ∧
    p.drop (p.length - 8) = len64Be (8 * m.length) := by
  have hlen := pad_length h
  obtain ⟨-, rfl⟩ := pad_eq_ok_iff.mp h
  refine ⟨?_, ?_, fun k hk hk8 => ?_, ?_⟩
  · simp
  · simp
  · rw [hlen] at hk8
    rw [List.getElem?_append_left (by simp; omega), List.getElem?_append_right (by simp; omega)]
    exact List.getElem?_replicate_of_lt (by simp; omega)
  · exact List.drop_left' (by simp; omega)

/-- Settles O53: the number of zeros is below 64 and brings the length to a whole number of blocks. -/
theorem padProperties : Obligations.PadProperties := by
  refine ⟨fun m hm => ?_, fun c hc m p hlen hp => ?_⟩
  · have hp := pad_of_supported hm
    have hz := zeroCount_lt m.length
    have length := pad_length hp
    have blocks := pad_blocks hp
    exact ⟨_, hp, pad_length_mod hp, by omega, by omega, blocks, by omega, pad_bytes hp⟩
  · have length := pad_length hp
    rw [hlen] at length ⊢
    have tabled : ∀ c ∈ [(0, 55, 64), (4, 51, 64), (55, 0, 64), (56, 63, 128), (63, 56, 128), (64, 55, 128),
        (119, 0, 128), (120, 63, 192)], zeroCount c.1 = c.2.1 ∧ c.1 + zeroCount c.1 + 9 = c.2.2 := by decide
    exact ⟨(tabled c hc).1, length.trans (tabled c hc).2⟩

/-! ### Hexadecimal digits (R115) -/

theorem hexValue_hexDigit (n : BitVec 4) : hexValue (hexDigit n) = some n := by
  revert n
  decide

theorem nibbles_append (b : Byte) : b.extractLsb' 4 4 ++ b.extractLsb' 0 4 = b := by
  rw [BitVec.extractLsb'_append_extractLsb'_eq_extractLsb' (by decide)]
  exact BitVec.extractLsb'_eq_self

/-- Two digits are read back as the byte they write, high nibble first. -/
theorem takeHex_hexByte_append (b : Byte) (cs : List Char) :
    takeHex (hexByte b ++ cs) = (b :: (takeHex cs).1, (takeHex cs).2) := by
  simp only [hexByte, List.cons_append, List.nil_append, takeHex, hexValue_hexDigit, nibbles_append]

theorem takeHex_flatMap_hexByte (l : List Byte) : takeHex (l.flatMap hexByte) = (l, []) := by
  induction l with
  | nil => rfl
  | cons b l ih => rw [List.flatMap_cons, takeHex_hexByte_append, ih]

theorem length_flatMap_hexByte (l : List Byte) : (l.flatMap hexByte).length = 2 * l.length := by
  induction l with
  | nil => rfl
  | cons b l ih =>
    rw [List.flatMap_cons, List.length_append, ih, List.length_cons]
    simp only [hexByte, List.length_cons, List.length_nil]
    omega

theorem flatMap_hexByte_getElem? {l : List Byte} {k : Nat} (hk : k < l.length) :
    (l.flatMap hexByte)[2 * k]? = some (hexDigit (l[k].extractLsb' 4 4)) ∧
    (l.flatMap hexByte)[2 * k + 1]? = some (hexDigit (l[k].extractLsb' 0 4)) := by
  induction l generalizing k with
  | nil => cases hk
  | cons b l ih =>
    cases k with
    | zero => exact ⟨rfl, rfl⟩
    | succ k => exact ih (Nat.lt_of_succ_lt_succ hk)

theorem hexDigit_mem (n : BitVec 4) :
    hexDigit n ∈ ['0', '1', '2', '3', '4', '5', '6', '7', '8', '9', 'a', 'b', 'c', 'd', 'e', 'f'] := by
  revert n
  decide

theorem hex_length (d : Digest) : (hex d).length = 64 := by
  rw [hex, length_flatMap_hexByte, Vector.length_toList]

/-- Settles O56: the digits place by place; they are read back as the bytes, so different digests differ. -/
theorem hexWritesEveryNibble : Obligations.HexWritesEveryNibble := by
  refine ⟨fun d => ⟨hex_length d, fun k => ?_⟩, fun d c hc => ?_, fun d e h => ?_⟩
  · have hk : k.val < d.toList.length := by rw [Vector.length_toList]; exact k.isLt
    simpa [hex] using flatMap_hexByte_getElem? hk
  · obtain ⟨b, -, hc⟩ := List.mem_flatMap.mp hc
    obtain rfl | rfl : c = hexDigit (b.extractLsb' 4 4) ∨ c = hexDigit (b.extractLsb' 0 4) := by
      simpa [hexByte] using hc
    · exact hexDigit_mem _
    · exact hexDigit_mem _
  · have read := congrArg takeHex h
    rw [hex, hex, takeHex_flatMap_hexByte, takeHex_flatMap_hexByte] at read
    exact Vector.toList_inj.mp (Prod.mk.inj read).1

/-! ### `hash` (R140) -/

/-- One block of the chain: compress its schedule and feed forward. -/
def absorbBlock (hs : State8) (b : Block) : State8 := feedForward hs (compressWords (expandBlock b) hs)

theorem absorb_toList (hs : State8) (b : Block) : absorb hs b.toList = .ok (absorbBlock hs b) := by
  rw [absorb, expand_toList]
  simp only [bind, Except.bind, compress_toList]
  rfl

theorem foldlM_absorb (bs : List Block) (hs : State8) :
    (bs.map fun b => b.toList).foldlM absorb hs = .ok (bs.foldl absorbBlock hs) := by
  induction bs generalizing hs with
  | nil => rfl
  | cons b bs ih =>
    rw [List.map_cons, List.foldlM_cons, absorb_toList]
    exact ih _

theorem mapM_listBlock_eq_ok_iff {ls : List (List Byte)} {bs : List Block} :
    ls.mapM listBlock = .ok bs ↔ bs.map (fun b => b.toList) = ls := by
  refine ⟨fun h => ?_, fun h => h ▸ mapM_listBlock_toList bs⟩
  induction ls generalizing bs with
  | nil => cases h; rfl
  | cons l ls ih =>
    rw [List.mapM_cons] at h
    cases hb : listBlock l with
    | error c => rw [hb] at h; cases h
    | ok b =>
      cases hbs : ls.mapM listBlock with
      | error c => rw [hb, hbs] at h; cases h
      | ok cs =>
        rw [hb, hbs] at h
        cases h
        rw [List.map_cons, ih hbs, listBlock_eq_ok_iff.mp hb]

theorem messageBlocks_eq_ok_iff {m : List Byte} {bs : List Block} :
    messageBlocks m = .ok bs ↔ ∃ p, pad m = .ok p ∧ bs.map (fun b => b.toList) = windows p := by
  rw [messageBlocks]
  cases hp : pad m with
  | error c => simp [bind, Except.bind]
  | ok p => simpa [bind, Except.bind] using mapM_listBlock_eq_ok_iff

theorem hashMessage_of_blocks {m : List Byte} {bs : List Block} (h : messageBlocks m = .ok bs) :
    hashMessage m = .ok (hex (render (bs.foldl absorbBlock romIV))) := by
  obtain ⟨p, hp, hbs⟩ := messageBlocks_eq_ok_iff.mp h
  rw [hashMessage, hp]
  simp only [bind, Except.bind, ← hbs, foldlM_absorb]
  rfl

theorem length_of_messageBlocks {m : List Byte} {bs : List Block} (h : messageBlocks m = .ok bs) :
    bs.length = (m.length + 8) / 64 + 1 := by
  obtain ⟨p, hp, hbs⟩ := messageBlocks_eq_ok_iff.mp h
  have length := congrArg List.length hbs
  rw [List.length_map, windows_length, pad_blocks hp] at length
  exact length

/-- The blocks of every supported message exist. -/
theorem exists_messageBlocks {m : List Byte} (hm : m.length < 2 ^ 61) : ∃ bs, messageBlocks m = .ok bs := by
  obtain ⟨bs, hbs⟩ := exists_blocks_of_lengths fun l hl => length_of_mem_windows (p := _) hl
  exact ⟨bs, messageBlocks_eq_ok_iff.mpr ⟨_, pad_of_supported hm, hbs⟩⟩

/-- Settles O57: every window is a block, so no step of the chain fails. -/
theorem hashTotalOnSupported : Obligations.HashTotalOnSupported := by
  intro m hm
  obtain ⟨bs, h⟩ := exists_messageBlocks hm
  obtain ⟨p, hp, hbs⟩ := messageBlocks_eq_ok_iff.mp h
  exact ⟨_, bs, p, hashMessage_of_blocks h, hex_length _, hp, hbs.symm, rfl⟩

end Sys2Proof.Proofs
end

section
/-! Messages on the core (R79, R150, R151, R201). `Heading` says what `HS` is, or will be when the block in progress is
done; INIT starts it at IV, an accepted BLOCK moves it one `absorbBlock` further, and the steps of a block keep it. WAIT,
the trace HASH and the moves of a host that never idles all follow it. -/

namespace Sys2Proof.Proofs
open Sys2Proof.Machine Sys2Proof.Laws

/-! ### Where the core is heading -/

/-- A message is begun, and in phase IDLE `HS` is `h` and `dv` is `d`, now or when the block in progress is done. -/
structure Heading (h : State8) (d : Bool) (s : State) : Prop where
  inv    : Inv s
  isOpen : s.isOpen = true
  atRest : s.phase = .idle → s.hs = h ∧ s.dv = d
  atWork : busy s → d = true ∧ feedForward s.hs (finalWr s) = h

theorem Heading.of_elements_eq {h : State8} {d : Bool} {s u : State} (hu : elements u = elements s)
    (hs : Heading h d s) : Heading h d u := by
  obtain ⟨inv, isOpen, atRest, atWork⟩ := hs
  have inv' := inv_of_elements_eq hu inv
  simp only [elements, Elements.mk.injEq] at hu
  obtain ⟨hwr, hhs, hw, hp, ht, ho, hd, -⟩ := hu
  have wr : finalWr u = finalWr s := by simp only [finalWr, finalW, hwr, hhs, hw, hp, ht]
  refine ⟨inv', ho ▸ isOpen, ?_, ?_⟩
  · rwa [hp, hhs, hd]
  · rwa [busy, hp, hhs, wr]

theorem Heading.withPending {h : State8} {d : Bool} {s : State} (hs : Heading h d s) (es : List HostEvent) :
    Heading h d { s with pending := es } := hs.of_elements_eq (s := s) rfl

/-- In phase FAULT no message is begun. -/
theorem Heading.idle_or_busy {h : State8} {d : Bool} {s : State} (hs : Heading h d s) : s.phase = .idle ∨ busy s := by
  cases hp : s.phase with
  | idle => exact .inl rfl
  | sched | ldreg | round | feed => simp [busy, hp]
  | fault =>
    have closed := (hs.inv.inFault hp).1
    simp [hs.isOpen] at closed

/-- A block in progress is heading for its feed-forward. -/
theorem heading_of_busy {s : State} (hI : Inv s) (hb : busy s) : Heading (feedForward s.hs (finalWr s)) true s where
  inv := hI
  isOpen := (hI.inBlock hb).1
  atRest hp := by simp [busy, hp] at hb
  atWork _ := ⟨rfl, rfl⟩

theorem heading_of_absorbed {s u : State} (hI : Inv u) (hu : Absorbed s u) :
    Heading (feedForward s.hs (finalWr s)) true u where
  inv := hI
  isOpen := (hI.valid hu.dv).2
  atRest _ := ⟨hu.hs, hu.dv⟩
  atWork hb := by simp [busy, hu.phase] at hb

theorem busySteps_of_idle {s : State} (hp : s.phase = .idle) : busySteps s = 0 := by
  simp only [busySteps, hp]

/-! ### One step -/

/-- Every step of a block keeps where it is heading. -/
theorem Heading.step_of_busy {h : State8} {d : Bool} {s : State} (hs : Heading h d s) (hb : busy s)
    (hr : resetNext s = false) : ∃ u, step s = .next u ∧ Heading h d u ∧ busySteps u + 1 = busySteps s := by
  have working := working_of_inv hs.inv hb
  obtain ⟨rfl, rfl⟩ := hs.atWork hb
  rcases Nat.lt_or_ge 1 (busySteps s) with hleft | hleft
  · obtain ⟨u, hu, worked⟩ := worked_step working hr hleft
    have heading := heading_of_busy (inv_of_step hs.inv hu) worked.working.busy
    rw [worked.hs, worked.wr] at heading
    exact ⟨u, hu, heading, worked.left⟩
  · have hp := phase_of_last_step working hleft
    obtain ⟨u, hu, absorbed⟩ := absorbed_step hp hr
    refine ⟨u, hu, heading_of_absorbed (inv_of_step hs.inv hu) absorbed, ?_⟩
    rw [busySteps_of_idle absorbed.phase, busySteps_of_feed hp]

/-- INIT begins a message at IV (R143). -/
theorem heading_of_init {s : State} {b : Block} {es : List HostEvent} (hI : Inv s) (hp : s.phase = .idle)
    (hes : s.pending = .drive cmdInit b :: es) : ∃ u, step s = .next u ∧ Heading romIV false u ∧ u.phase = .idle := by
  have hi : selected s.phase cmdInit = .init := by rw [hp]; decide
  have hu := step_of_drive hes
  rw [hi, exec_init] at hu
  exact ⟨_, hu, ⟨inv_of_step hI hu, rfl, fun _ => ⟨rfl, rfl⟩, by simp [busy]⟩, rfl⟩

/-- An accepted BLOCK moves where the core is heading one block further (R144, R150). -/
theorem Heading.step_of_block {h : State8} {d : Bool} {s : State} {b : Block} {es : List HostEvent}
    (hs : Heading h d s) (hp : s.phase = .idle) (hes : s.pending = .drive cmdBlock b :: es) :
    ∃ u, step s = .next u ∧ Heading (absorbBlock h b) true u ∧ busySteps u = 114 := by
  obtain ⟨rfl, -⟩ := hs.atRest hp
  obtain ⟨u, hu, accepted⟩ := accepted_of_block hp hs.isOpen hes
  have heading := heading_of_busy (inv_of_step hs.inv hu) accepted.working.busy
  rw [accepted.hs, accepted.wr] at heading
  exact ⟨u, hu, heading, accepted.left⟩

/-! ### WAIT (R79) -/

theorem waitReady_of_not_busy {s : State} (hp : s.phase = .idle ∨ s.phase = .fault) : waitReady s = .next s := by
  obtain hp | hp := hp <;> simp only [waitReady, busySteps, hp, waitFuel]

/-- A wait takes the steps the block still needs, and the block ends where it is heading. -/
theorem Heading.wait {h : State8} {d : Bool} {s : State} (hs : Heading h d s) :
    ∃ u, waitReady s = .next u ∧ Heading h d u ∧ u.phase = .idle := by
  unfold waitReady
  induction hn : busySteps s generalizing s with
  | zero =>
    obtain hp | hb := hs.idle_or_busy
    · exact ⟨s, rfl, hs, hp⟩
    · have pos := (busySteps_bounds (working_of_inv hs.inv hb)).1
      omega
  | succ n ih =>
    obtain hp | hb := hs.idle_or_busy
    · rw [busySteps_of_idle hp] at hn
      omega
    · obtain ⟨hready, -, hfault⟩ := outputs_of_busy hs.inv hb
      obtain ⟨v, hv, heading, hleft⟩ := (hs.withPending [.drive cmdNop s.blockIn]).step_of_busy hb rfl
      have hleft : busySteps v + 1 = busySteps s := hleft
      obtain ⟨u, hu, done⟩ := ih heading (by omega)
      refine ⟨u, ?_, done⟩
      rw [waitFuel, hready, hfault, nopStep, stepWith, hv]
      exact hu

/-- Settles O48: a busy core is heading for the end of its block, where the wait ends. -/
theorem waitEndsReadyOrFault : Obligations.WaitEndsReadyOrFault := by
  intro s hI
  have still (hp : s.phase = .idle ∨ s.phase = .fault) := waitReady_of_not_busy hp
  refine ⟨?_, fun h => still (by simpa [ready, faultOut] using h)⟩
  by_cases hp : s.phase = .idle ∨ s.phase = .fault
  · exact ⟨s, still hp, by simpa [ready, faultOut] using hp, hI⟩
  · have hb : busy s := by
      cases hs : s.phase <;> simp_all [busy]
    obtain ⟨u, hu, heading, hpu⟩ := (heading_of_busy hI hb).wait
    exact ⟨u, hu, .inl (by simp [ready, hpu]), heading.inv⟩

/-! ### The trace HASH (R79, R151) -/

theorem present_of_wait {c : CmdCode} {b : Option Block} {s u : State} (hu : waitReady s = .next u)
    (hp : u.phase = .idle) : present c b s = stepWith c (b.getD u.blockIn) u := by
  rw [present, hu, andThen_next, if_pos (by simp [ready, hp])]

theorem Heading.runItem_block {h : State8} {d : Bool} {s : State} (hs : Heading h d s) (b : Block) :
    ∃ u, runItem (.block b) s = .next u ∧ Heading (absorbBlock h b) true u := by
  obtain ⟨v, hv, heading, hp⟩ := hs.wait
  obtain ⟨u, hu, done, -⟩ := (heading.withPending [.drive cmdBlock b]).step_of_block hp rfl
  exact ⟨u, (present_of_wait hv hp).trans hu, done⟩

theorem Heading.runItems_blocks {h : State8} {d : Bool} {s : State} (hs : Heading h d s) (bs : List Block) :
    ∃ u, runItems (bs.map .block) s = .next u ∧ Heading (bs.foldl absorbBlock h) (d || !bs.isEmpty) u := by
  induction bs generalizing h d s with
  | nil => exact ⟨s, rfl, by simpa using hs⟩
  | cons b bs ih =>
    obtain ⟨v, hv, heading⟩ := hs.runItem_block b
    obtain ⟨u, hu, done⟩ := ih heading
    refine ⟨u, ?_, by simpa using done⟩
    rw [List.map_cons, runItems, hv]
    exact hu

theorem runItem_init {s : State} (hI : Inv s) (hp : s.phase = .idle) :
    ∃ u, runItem .init s = .next u ∧ Heading romIV false u := by
  obtain ⟨u, hu, heading, -⟩ := heading_of_init (inv_withPending hI [.drive cmdInit s.blockIn]) hp rfl
  exact ⟨u, (present_of_wait (waitReady_of_not_busy (.inl hp)) hp).trans hu, heading⟩

theorem hashItems_of_blocks {m : List Byte} {bs : List Block} (h : messageBlocks m = .ok bs) :
    hashItems m = .ok (.init :: bs.map .block) := by
  rw [hashItems, h]
  rfl

/-- The digest of a message whose blocks are `bs` (R140). -/
def digestOf (bs : List Block) : Digest := render (bs.foldl absorbBlock romIV)

theorem hashMessage_eq_hex_digestOf {m : List Byte} {bs : List Block} (h : messageBlocks m = .ok bs) :
    hashMessage m = .ok (hex (digestOf bs)) := hashMessage_of_blocks h

/-- Even the empty message has a block. -/
theorem isEmpty_of_messageBlocks {m : List Byte} {bs : List Block} (h : messageBlocks m = .ok bs) :
    bs.isEmpty = false := by
  rw [List.isEmpty_eq_false_iff, ← List.length_pos_iff, length_of_messageBlocks h]
  exact Nat.succ_pos _

/-- The items of HASH leave the core heading for the digest of the message. -/
theorem runItems_hash {s : State} {m : List Byte} {bs : List Block} (hI : Inv s) (hp : s.phase = .idle)
    (h : messageBlocks m = .ok bs) :
    ∃ u, runItems (.init :: bs.map .block) s = .next u ∧ Heading (bs.foldl absorbBlock romIV) true u := by
  obtain ⟨v, hv, heading⟩ := runItem_init hI hp
  obtain ⟨u, hu, done⟩ := heading.runItems_blocks bs
  refine ⟨u, ?_, by simpa [isEmpty_of_messageBlocks h] using done⟩
  rw [runItems, hv]
  exact hu

/-- At rest with `dv` = 1 the core shows the digest it was heading for (R193). -/
theorem Heading.complete {h : State8} {s : State} (hs : Heading h true s) (hp : s.phase = .idle) :
    complete s ∧ readDigest s = some (render h) := by
  obtain ⟨rfl, hd⟩ := hs.atRest hp
  exact ⟨⟨by simp [ready, hp], hd, by simp [faultOut, hp]⟩, by simp [readDigest, digestValid, digestOut, hd]⟩

/-- Settles O49: the items head for the digest, and the last wait gets there. -/
theorem hashTraceComputesHash : Obligations.HashTraceComputesHash := by
  intro s m hI hp hm
  obtain ⟨bs, h⟩ := exists_messageBlocks hm
  obtain ⟨v, hv, heading⟩ := runItems_hash hI hp h
  obtain ⟨u, hu, done, hpu⟩ := heading.wait
  obtain ⟨hcomplete, hread⟩ := done.complete hpu
  refine ⟨_, u, digestOf bs, hashItems_of_blocks h, ?_, hcomplete, hread, hashMessage_eq_hex_digestOf h⟩
  rw [runTrace, hv]
  exact hu

/-! ### A host that never idles (R201) -/

theorem Heading.steps_of_busy {h : State8} {d : Bool} {s : State} (hs : Heading h d s) (hn : noReset (busySteps s) s) :
    ∃ u, steps (busySteps s) s = .next u ∧ Heading h d u ∧ u.phase = .idle := by
  obtain hp | hb := hs.idle_or_busy
  · rw [busySteps_of_idle hp]
    exact ⟨s, rfl, hs, hp⟩
  · obtain ⟨u, hu, absorbed⟩ := absorbed_steps (working_of_inv hs.inv hb) hn
    obtain ⟨rfl, rfl⟩ := hs.atWork hb
    exact ⟨u, hu, heading_of_absorbed (inv_of_steps hs.inv hu) absorbed, absorbed.phase⟩

/-- The moves of one block: it is presented once, then the port shows NOP (R201). -/
def blockEvents (b : Block) : List HostEvent :=
  .drive cmdBlock b :: List.replicate (Config.stepsPerBlock - 1) (.drive cmdNop b)

theorem noReset_blockEvents {b : Block} {es : List HostEvent} {s : State}
    (hes : s.pending = List.replicate (Config.stepsPerBlock - 1) (.drive cmdNop b) ++ es) : noReset 114 s := by
  intro e he
  have hlen : (List.replicate (Config.stepsPerBlock - 1) (HostEvent.drive cmdNop b)).length = 114 :=
    List.length_replicate
  rw [hes, List.take_left' hlen] at he
  rw [List.eq_of_mem_replicate he]
  nofun

theorem Heading.steps_blockEvents {h : State8} {d : Bool} {s : State} {b : Block} {es : List HostEvent}
    (hs : Heading h d s) (hp : s.phase = .idle) (hes : s.pending = blockEvents b ++ es) :
    ∃ u, steps Config.stepsPerBlock s = .next u ∧ Heading (absorbBlock h b) true u ∧ u.phase = .idle ∧
      u.pending = es := by
  obtain ⟨v, hv, heading, hleft⟩ := hs.step_of_block hp hes
  have hpv : v.pending = List.replicate (Config.stepsPerBlock - 1) (.drive cmdNop b) ++ es := by
    rw [pending_of_step hv, hes]
    rfl
  obtain ⟨u, hu, done⟩ := heading.steps_of_busy (by rw [hleft]; exact noReset_blockEvents hpv)
  rw [hleft] at hu
  have hpu : u.pending = es := by
    rw [pending_of_steps hu, hpv]
    exact List.drop_left' List.length_replicate
  exact ⟨u, (steps_succ_of_next 114 hv).trans hu, done.1, done.2, hpu⟩

theorem Heading.steps_blocks {h : State8} {d : Bool} {s : State} {bs : List Block} (hs : Heading h d s)
    (hp : s.phase = .idle) (hes : s.pending = bs.flatMap blockEvents) :
    ∃ u, steps (Config.stepsPerBlock * bs.length) s = .next u ∧
      Heading (bs.foldl absorbBlock h) (d || !bs.isEmpty) u ∧ u.phase = .idle ∧ u.pending = [] := by
  induction bs generalizing h d s with
  | nil => exact ⟨s, rfl, by simpa using hs, hp, hes⟩
  | cons b bs ih =>
    obtain ⟨v, hv, heading, hpv, hesv⟩ := hs.steps_blockEvents hp hes
    obtain ⟨u, hu, done, rest⟩ := ih heading hpv hesv
    refine ⟨u, ?_, by simpa using done, rest⟩
    rw [List.length_cons, Nat.mul_succ, Nat.add_comm, steps_add hv, hu]

/-- Settles O50: INIT, then 115 steps to a block. -/
theorem messageTakesItsSteps : Obligations.MessageTakesItsSteps := by
  intro s m p bs hI hp hpad hbs hes
  have h : messageBlocks m = .ok bs :=
    messageBlocks_eq_ok_iff.mpr ⟨p, hpad, mapM_listBlock_eq_ok_iff.mp hbs⟩
  obtain ⟨v, hv, heading, hpv⟩ := heading_of_init hI hp hes
  have hesv : v.pending = bs.flatMap blockEvents := by
    rw [pending_of_step hv, hes]
    rfl
  obtain ⟨u, hu, done, hpu, hnil⟩ := heading.steps_blocks hpv hesv
  have done : Heading (bs.foldl absorbBlock romIV) true u := by simpa [isEmpty_of_messageBlocks h] using done
  obtain ⟨hcomplete, hread⟩ := done.complete hpu
  refine ⟨u, digestOf bs, ?_, hcomplete, hnil, hread, hashMessage_eq_hex_digestOf h, length_of_messageBlocks h⟩
  rw [Nat.add_comm, steps_succ_of_next _ hv, hu]

end Sys2Proof.Proofs
end

section
/-! The host that keeps R200 (70_reset_and_hazards.md R192, R196, R198, R200). `Move` says once what a choice of the host
puts on the ports and makes of its work; `Serving` says how the work and the core belong together, and every move keeps
it. -/

namespace Sys2Proof.Proofs
open Sys2Proof.Machine Sys2Proof.Laws

/-! ### One move of the host -/

/-- What a choice of the host can come to in a state `s`: the reset event, a move that is not accepted, INIT accepted, or
a block accepted. -/
inductive Move (s : State) (w : HostWork) (a : HostAct) : HostEvent → HostWork → Prop where
  | reset (ha : a = .reset) : Move s w a .reset w.afterReset
  | quiet (c : CmdCode) (free : Block) (hold : Bool) (ha : a ≠ .reset)
      (hidle : s.phase = .idle → c = cmdNop ∧ w.presented a = none) :
      Move s w a (.drive c free) { w with holding := hold }
  | begin (m : List Byte) (bs : List Block) (free : Block) (ha : a ≠ .reset) (hp : s.phase = .idle)
      (hrest : w.rest = []) (hnext : w.nextMessage = some (m, bs)) :
      Move s w a (.drive cmdInit free) { w with begun := some m, rest := bs, later := w.later.tail, holding := false }
  | block (b : Block) (bs : List Block) (ha : a ≠ .reset) (hp : s.phase = .idle) (hrest : w.rest = b :: bs) :
      Move s w a (.drive cmdBlock b) { w with rest := bs, holding := false }

theorem moved_of_presented_none {s : State} {w : HostWork} {a : HostAct} (ha : a ≠ .reset)
    (h : w.presented a = none) : w.moved s a = w := by
  cases a <;> simp_all [HostWork.moved]

theorem moved_of_presented_some {s : State} {w : HostWork} {a : HostAct} {p : CmdCode × Option Block}
    (h : w.presented a = some p) : w.moved s a = if ready s then w.accepted else { w with holding := true } := by
  cases a <;> simp_all [HostWork.moved, HostWork.presented]

theorem ready_eq_true_iff {s : State} : ready s = true ↔ s.phase = .idle := by simp [ready]

theorem move_of_event (s : State) (w : HostWork) (a : HostAct) : Move s w a (w.event s a) (w.moved s a) := by
  have presents {p : CmdCode × Option Block} (h : w.presented a = some p) : a ≠ .reset := by
    rintro rfl
    simp [HostWork.presented] at h
  obtain ⟨rfl, he⟩ | ⟨free, hnone, he⟩ | ⟨m, bs, free, -, hrest, hnext, hsome, he⟩ |
    ⟨b, bs, shown, -, hrest, hsome, he, hshown⟩ := event_cases s w a
  · rw [he]
    exact .reset rfl
  · have ha : a ≠ .reset := by
      rintro rfl
      cases he
    rw [he, moved_of_presented_none ha hnone]
    exact .quiet cmdNop free w.holding ha fun _ => ⟨rfl, hnone⟩
  · rw [he, moved_of_presented_some hsome]
    by_cases hp : s.phase = .idle
    · have taken : w.accepted =
          { w with begun := some m, rest := bs, later := w.later.tail, holding := false } := by
        simp [HostWork.accepted, hrest, hnext]
      rw [if_pos (ready_eq_true_iff.mpr hp), taken]
      exact .begin m bs free (presents hsome) hp hrest hnext
    · rw [if_neg (mt ready_eq_true_iff.mp hp)]
      exact .quiet cmdInit free true (presents hsome) fun h => absurd h hp
  · rw [he, moved_of_presented_some hsome]
    by_cases hp : s.phase = .idle
    · have hready := ready_eq_true_iff.mpr hp
      have taken : w.accepted = { w with rest := bs, holding := false } := by simp [HostWork.accepted, hrest]
      rw [if_pos hready, hshown hready, taken]
      exact .block b bs (presents hsome) hp hrest
    · rw [if_neg (mt ready_eq_true_iff.mp hp)]
      exact .quiet cmdBlock shown true (presents hsome) fun h => absurd h hp

/-! ### The core under a move that is not accepted -/

/-- A core that is not heading for a fault keeps out of it while nothing is accepted, or INIT is. -/
theorem noFault_of_step {s u : State} {c : CmdCode} {b : Block} {es : List HostEvent} (hs : s.phase ≠ .fault)
    (hes : s.pending = .drive c b :: es) (hc : s.phase = .idle → c = cmdNop ∨ c = cmdInit) (hu : step s = .next u) :
    u.phase ≠ .fault := by
  have hcmd : sampledCmd s = c := by simp only [sampledCmd, hes]
  have notAccepted {d : CmdCode} (ha : accepts d s) : d = cmdNop ∨ d = cmdInit := by
    obtain ⟨-, hp, hd⟩ := ha
    rw [← hd, hcmd]
    exact hc hp
  intro hp
  obtain ⟨ha, -⟩ | ⟨ha, -⟩ := faultsNext_of_stepEffect hs hp (stepEffect_of_step hu)
  · exact absurd (notAccepted ha) (by decide)
  · exact absurd (notAccepted ha) (by decide)

/-- In phase IDLE a NOP leaves the elements of R20. -/
theorem elements_of_step_nop {s u : State} {b : Block} {es : List HostEvent} (hp : s.phase = .idle)
    (hes : s.pending = .drive cmdNop b :: es) (hu : step s = .next u) : elements u = elements s := by
  have hi : selected s.phase cmdNop = .nop := by rw [hp]; decide
  rw [step_of_drive hes, hi, exec_nop] at hu
  cases hu
  rfl

theorem Heading.of_quiet_step {h : State8} {d : Bool} {s u : State} {c : CmdCode} {b : Block} {es : List HostEvent}
    (hs : Heading h d s) (hes : s.pending = .drive c b :: es) (hc : s.phase = .idle → c = cmdNop)
    (hu : step s = .next u) : Heading h d u := by
  obtain hp | hb := hs.idle_or_busy
  · obtain rfl := hc hp
    exact hs.of_elements_eq (elements_of_step_nop hp hes hu)
  · obtain ⟨v, hv, heading, -⟩ := hs.step_of_busy hb (by simp [resetNext, hes])
    cases hu.symm.trans hv
    exact heading

/-! ### The host's messages -/

/-- Where the messages of the host stand: finished ones with their digests read, the one begun, those to come; or the
finished ones, then one that is too large, where the host has stopped (log entry 23). -/
inductive Accounted (ms : List (List Byte)) (w : HostWork) : Prop where
  | going (fin : List (List Byte)) (hfin : fin.mapM hashMessage = .ok (w.digests.map hex)) (hreport : w.report = none)
      (hms : ms = fin ++ w.begun.toList ++ w.later)
  | stopped (fin post : List (List Byte)) (m : List Byte) (hfin : fin.mapM hashMessage = .ok (w.digests.map hex))
      (hreport : w.report = some .unsupportedInput) (hms : ms = fin ++ m :: post) (hm : 2 ^ 61 ≤ m.length)
      (hbegun : w.begun = none) (hlater : w.later = [])

/-- The message in hand: its blocks accepted so far are those the core is heading through. -/
inductive InHand (w : HostWork) (s : State) : Prop where
  | none (hbegun : w.begun = none) (hrest : w.rest = [])
  | begun (m : List Byte) (pre : List Block) (hbegun : w.begun = some m)
      (hblocks : messageBlocks m = .ok (pre ++ w.rest))
      (heading : Heading (pre.foldl absorbBlock romIV) (!pre.isEmpty) s)

/-- A lawful host after its reset, and its core. -/
structure Serving (ms : List (List Byte)) (w : HostWork) (s : State) : Prop where
  resetDue  : w.resetDue = false
  inv       : Inv s
  noFault   : s.phase ≠ .fault
  accounted : Accounted ms w
  inHand    : InHand w s

/-- The host has taken the outputs of the present state into account. -/
structure Observed (w : HostWork) (s : State) : Prop where
  read    : s.phase = .idle → w.rest = [] → w.begun = none
  checked : w.begun = none → ∀ m ∈ w.later.head?, m.length < 2 ^ 61

theorem mapM_hashMessage_concat {fin : List (List Byte)} {m : List Byte} {xs : List (List Char)} {x : List Char}
    (hfin : fin.mapM hashMessage = .ok xs) (hm : hashMessage m = .ok x) :
    (fin ++ [m]).mapM hashMessage = .ok (xs ++ [x]) := by
  simp only [List.mapM_append, hfin, List.mapM_cons, List.mapM_nil, hm]
  rfl

/-! ### Looking at the outputs -/

/-- A message is in hand with no blocks left only while its last block is in progress; then its digest shows. -/
theorem InHand.digest {w : HostWork} {s : State} {m : List Byte} (h : InHand w s) (hbegun : w.begun = some m)
    (hrest : w.rest = []) (hp : s.phase = .idle) :
    s.dv = true ∧ hashMessage m = .ok (hex (digestOut s)) := by
  cases h with
  | none hnone => simp [hnone] at hbegun
  | begun n pre hn hblocks heading =>
    obtain rfl : n = m := Option.some.inj (hn.symm.trans hbegun)
    rw [hrest, List.append_nil] at hblocks
    obtain ⟨hhs, hd⟩ := heading.atRest hp
    rw [isEmpty_of_messageBlocks hblocks] at hd
    refine ⟨hd, ?_⟩
    rw [digestOut, hhs]
    exact hashMessage_of_blocks hblocks

theorem Serving.readResult {ms : List (List Byte)} {w : HostWork} {s : State} (h : Serving ms w s) :
    Serving ms (w.readResult s) s := by
  obtain hw | ⟨hd, hsome, hrest, hw⟩ := readResult_cases s w <;> rw [hw]
  · exact h
  · obtain ⟨hdue, inv, noFault, accounted, inHand⟩ := h
    obtain ⟨m, hm⟩ := Option.isSome_iff_exists.mp hsome
    have hash := (inHand.digest hm hrest (inv.valid hd).1).2
    refine ⟨hdue, inv, noFault, ?_, .none rfl hrest⟩
    cases accounted with
    | going fin hfin hreport hms =>
      refine .going (fin ++ [m]) ?_ hreport ?_
      · simpa using mapM_hashMessage_concat hfin hash
      · simpa [hm] using hms
    | stopped fin post n hfin hreport hms hn hbegun => simp [hbegun] at hsome

theorem messageBlocks_eq_error {m : List Byte} {c : FaultCause} (h : messageBlocks m = .error c) :
    c = .unsupportedInput ∧ 2 ^ 61 ≤ m.length := by
  rcases Nat.lt_or_ge m.length (2 ^ 61) with hm | hm
  · obtain ⟨bs, hbs⟩ := exists_messageBlocks hm
    simp [hbs] at h
  · rw [messageBlocks_of_large hm] at h
    exact ⟨(Except.error.inj h).symm, hm⟩

theorem Serving.refuse {ms : List (List Byte)} {w : HostWork} {s : State} (h : Serving ms w s) :
    Serving ms w.refuse s := by
  obtain hw | ⟨m, c, -, hbegun, hhead, herror, hw⟩ := refuse_cases w <;> rw [hw]
  · exact h
  · obtain ⟨hdue, inv, noFault, accounted, inHand⟩ := h
    obtain ⟨rfl, hm⟩ := messageBlocks_eq_error herror
    obtain ⟨post, hlater⟩ := List.head?_eq_some_iff.mp hhead
    refine ⟨hdue, inv, noFault, ?_, ?_⟩
    · cases accounted with
      | going fin hfin hreport hms =>
        exact .stopped fin post m hfin rfl (by simpa [hbegun, hlater] using hms) hm hbegun rfl
      | stopped fin post n hfin hreport hms hn hbegun hnil => simp [hnil] at hhead
    · cases inHand with
      | none hnone hrest => exact .none hnone hrest
      | begun n pre hn hblocks heading => exact .begun n pre hn hblocks heading

theorem Serving.observe {ms : List (List Byte)} {w : HostWork} {s : State} (h : Serving ms w s) :
    Serving ms (w.observe s) s := by
  rw [observe_of_no_fault w h.noFault]
  exact h.readResult.refuse

theorem readResult_rest (w : HostWork) (s : State) : (w.readResult s).rest = w.rest := by
  obtain h | ⟨-, -, -, h⟩ := readResult_cases s w <;> rw [h]

theorem refuse_begun_rest (w : HostWork) : w.refuse.begun = w.begun ∧ w.refuse.rest = w.rest := by
  obtain h | ⟨m, c, -, -, -, -, h⟩ := refuse_cases w <;> rw [h] <;> exact ⟨rfl, rfl⟩

theorem begun_readResult_of_valid {w : HostWork} {s : State} (hrest : w.rest = []) (hd : s.dv = true) :
    (w.readResult s).begun = none := by
  cases hb : w.begun <;> simp [HostWork.readResult, readDigest, digestValid, hb, hrest, hd]

theorem supported_of_refuse {w : HostWork} (hdue : w.resetDue = false) (hbegun : w.begun = none) :
    ∀ m ∈ w.refuse.later.head?, m.length < 2 ^ 61 := by
  cases hl : w.later with
  | nil => simp [HostWork.refuse, hdue, hbegun, hl]
  | cons m ms =>
    cases hb : messageBlocks m with
    | error c => simp [HostWork.refuse, hdue, hbegun, hl, hb]
    | ok bs =>
      obtain ⟨p, hp, -⟩ := messageBlocks_eq_ok_iff.mp hb
      simpa [HostWork.refuse, hdue, hbegun, hl, hb] using (pad_eq_ok_iff.mp hp).1

theorem Serving.observed {ms : List (List Byte)} {w : HostWork} {s : State} (h : Serving ms w s) :
    Observed (w.observe s) s := by
  rw [observe_of_no_fault w h.noFault]
  obtain ⟨hbegun, hrest⟩ := refuse_begun_rest (w.readResult s)
  refine ⟨fun hp hnil => ?_, fun hnone => ?_⟩
  · rw [hrest, readResult_rest] at hnil
    rw [hbegun]
    cases hb : w.begun with
    | some m => exact begun_readResult_of_valid hnil (h.inHand.digest hb hnil hp).1
    | none =>
      obtain hw | ⟨-, hsome, -⟩ := readResult_cases s w
      · rw [hw, hb]
      · simp [hb] at hsome
  · exact supported_of_refuse h.readResult.resetDue (hbegun ▸ hnone)

/-! ### Every move keeps the work and the core together -/

theorem nextMessage_cons {w : HostWork} {m : List Byte} {bs : List Block} (h : w.nextMessage = some (m, bs)) :
    w.later = m :: w.later.tail ∧ messageBlocks m = .ok bs := by
  obtain ⟨hhead, hblocks⟩ := nextMessage_eq_some.mp h
  obtain ⟨ms, hms⟩ := List.head?_eq_some_iff.mp hhead
  exact ⟨by rw [hms, List.tail_cons], hblocks⟩

theorem Accounted.afterReset {ms : List (List Byte)} {w : HostWork} (h : Accounted ms w) : Accounted ms w.afterReset := by
  cases h with
  | going fin hfin hreport hms =>
    exact .going fin hfin hreport (by simpa [HostWork.afterReset] using hms)
  | stopped fin post m hfin hreport hms hm hbegun hlater =>
    exact .stopped fin post m hfin hreport hms hm rfl (by simp [HostWork.afterReset, hbegun, hlater])

theorem Accounted.begin {ms : List (List Byte)} {w : HostWork} {m : List Byte} {bs : List Block} {hold : Bool}
    (h : Accounted ms w) (hbegun : w.begun = none) (hnext : w.nextMessage = some (m, bs)) :
    Accounted ms { w with begun := some m, rest := bs, later := w.later.tail, holding := hold } := by
  obtain ⟨hlater, -⟩ := nextMessage_cons hnext
  cases h with
  | going fin hfin hreport hms =>
    refine .going fin hfin hreport ?_
    rw [hms, hbegun, hlater]
    simp
  | stopped fin post n hfin hreport hms hn hnone hnil => simp [hnil] at hlater

theorem Accounted.congr {ms : List (List Byte)} {w v : HostWork} (h : Accounted ms w) (hbegun : v.begun = w.begun)
    (hlater : v.later = w.later) (hdigests : v.digests = w.digests) (hreport : v.report = w.report) :
    Accounted ms v := by
  cases h with
  | going fin hfin hnone hms => exact .going fin (hdigests ▸ hfin) (hreport ▸ hnone) (hbegun ▸ hlater ▸ hms)
  | stopped fin post m hfin hsome hms hm hnone hnil =>
    exact .stopped fin post m (hdigests ▸ hfin) (hreport ▸ hsome) hms hm (hbegun ▸ hnone) (hlater ▸ hnil)

/-- The core's step under a move of the host, from the state the host looks at. -/
theorem Serving.move {ms : List (List Byte)} {w v : HostWork} {s u : State} {a : HostAct} {e : HostEvent}
    (h : Serving ms w s) (ho : Observed w s) (hm : Move s w a e v) (hu : step { s with pending := [e] } = .next u) :
    Serving ms v u := by
  obtain ⟨hdue, inv, noFault, accounted, inHand⟩ := h
  have inv := inv_withPending inv [e]
  have invU := inv_of_step inv hu
  cases hm with
  | reset ha =>
    rw [step_of_reset rfl] at hu
    cases hu
    exact ⟨rfl, invU, by simp, accounted.afterReset, .none rfl rfl⟩
  | quiet c free hold ha hidle =>
    have hc := fun hp => (hidle hp).1
    have noFault := noFault_of_step (s := { s with pending := [.drive c free] }) noFault rfl (fun hp => .inl (hc hp)) hu
    refine ⟨hdue, invU, noFault, accounted.congr rfl rfl rfl rfl, ?_⟩
    cases inHand with
    | none hbegun hrest => exact .none hbegun hrest
    | begun m pre hbegun hblocks heading =>
      exact .begun m pre hbegun hblocks ((heading.withPending _).of_quiet_step rfl hc hu)
  | begin m bs free ha hp hrest hnext =>
    obtain ⟨x, hx, heading, hpx⟩ := heading_of_init inv hp rfl
    cases hu.symm.trans hx
    exact ⟨hdue, invU, by simp [hpx], accounted.begin (ho.read hp hrest) hnext,
      .begun m [] rfl (nextMessage_cons hnext).2 heading⟩
  | block b bs ha hp hrest =>
    cases inHand with
    | none hbegun hnil => simp [hrest] at hnil
    | begun m pre hbegun hblocks heading =>
      obtain ⟨x, hx, heading, -⟩ := (heading.withPending [.drive cmdBlock b]).step_of_block hp rfl
      cases hu.symm.trans hx
      have noFault : u.phase ≠ .fault := by
        obtain hpu | hb := heading.idle_or_busy
        · simp [hpu]
        · rintro hpu
          simp [busy, hpu] at hb
      refine ⟨hdue, invU, noFault, accounted.congr rfl rfl rfl rfl, .begun m (pre ++ [b]) hbegun ?_ ?_⟩
      · simpa [hrest] using hblocks
      · have nonempty : (pre ++ [b]).isEmpty = false := by cases pre <;> rfl
        rw [nonempty]
        simpa using heading

theorem act_total {x : Session} (a : HostAct) (hI : Inv x.core) :
    ∃ u, step { x.core with pending := [x.move a] } = .next u ∧
      x.act a = .next ⟨(x.host.observe x.core).moved x.core a, u⟩ := by
  obtain ⟨u, hu⟩ := step_total (s := { x.core with pending := [x.move a] }) hI.schedIndex
  exact ⟨u, hu, act_of_next hu⟩

/-- Serving goes on, whatever the host chooses. -/
theorem Serving.act {ms : List (List Byte)} {x : Session} (h : Serving ms x.host x.core) (a : HostAct) :
    ∃ y, x.act a = .next y ∧ Serving ms y.host y.core := by
  obtain ⟨u, hu, hact⟩ := act_total a h.inv
  exact ⟨_, hact, h.observe.move h.observed (move_of_event _ _ _) hu⟩

theorem Serving.run {ms : List (List Byte)} {x : Session} (h : Serving ms x.host x.core) (acts : List HostAct) :
    ∃ y, x.run acts = .next y ∧ Serving ms y.host y.core := by
  induction acts generalizing x with
  | nil => exact ⟨x, rfl, h⟩
  | cons a acts ih =>
    obtain ⟨y, hy, serving⟩ := h.act a
    rw [run_cons_of_next acts hy]
    exact ih serving

/-! ### Before the first reset -/

/-- The host has not reset the core yet, and has asked for nothing. -/
structure Waiting (ms : List (List Byte)) (x : Session) : Prop where
  host : x.host = HostWork.start ms
  inv  : Inv x.core

/-- Before the reset the host sees a fault or no fault, and has a reset to make either way. -/
theorem observe_start (ms : List (List Byte)) (s : State) : (HostWork.start ms).observe s = HostWork.start ms := by
  by_cases hp : s.phase = .fault
  · rw [observe_of_fault _ hp]
    rfl
  · rw [observe_of_no_fault _ hp]
    rfl

theorem accounted_start (ms : List (List Byte)) : Accounted ms (HostWork.start ms) := .going [] rfl rfl rfl

theorem serving_after_reset (ms : List (List Byte)) (s : State) :
    Serving ms (HostWork.start ms).afterReset (resetEvent s) :=
  ⟨rfl, inv_resetEvent s, by simp, (accounted_start ms).afterReset, .none rfl rfl⟩

theorem presented_start (ms : List (List Byte)) (a : HostAct) : (HostWork.start ms).presented a = none := by
  obtain h | h := presented_eq (HostWork.start ms) a
  · exact h
  · exact h.trans (due_of_resetDue rfl)

theorem Waiting.act {ms : List (List Byte)} {x : Session} (h : Waiting ms x) (a : HostAct) :
    ∃ y, x.act a = .next y ∧
      (Serving ms y.host y.core ∨
        a ≠ .reset ∧ Waiting ms y ∧ (x.core.phase ≠ .fault → y.core.phase ≠ .fault)) := by
  obtain ⟨host, inv⟩ := h
  by_cases ha : a = .reset
  · subst ha
    refine ⟨_, act_reset x, .inl ?_⟩
    rw [host, observe_start]
    exact serving_after_reset ms _
  · obtain ⟨u, hu, hact⟩ := act_total a inv
    have hobs : x.host.observe x.core = HostWork.start ms := by rw [host, observe_start]
    obtain ⟨free, hmove⟩ : ∃ free, x.move a = .drive cmdNop free := by
      rw [Session.move, hobs]
      obtain ⟨free, he⟩ := event_of_ne_reset x.core (HostWork.start ms) ha
      exact ⟨free, by rw [he, presented_start]⟩
    have inv := inv_withPending inv [x.move a]
    refine ⟨_, hact, .inr ⟨ha, ⟨?_, inv_of_step inv hu⟩, fun hp => ?_⟩⟩
    · rw [hobs, moved_of_presented_none ha (presented_start ms a)]
    · rw [hmove] at hu
      exact noFault_of_step (s := { x.core with pending := [.drive cmdNop free] }) hp rfl (fun _ => .inl rfl) hu

theorem Waiting.run {ms : List (List Byte)} {x : Session} (h : Waiting ms x) (acts : List HostAct) :
    ∃ y, x.run acts = .next y ∧
      (Serving ms y.host y.core ∨
        .reset ∉ acts ∧ Waiting ms y ∧ (x.core.phase ≠ .fault → y.core.phase ≠ .fault)) := by
  induction acts generalizing x with
  | nil => exact ⟨x, rfl, .inr ⟨by simp, h, id⟩⟩
  | cons a acts ih =>
    obtain ⟨v, hv, serving | ⟨ha, waiting, noFault⟩⟩ := h.act a
    · obtain ⟨y, hy, serving⟩ := serving.run acts
      exact ⟨y, (run_cons_of_next acts hv).trans hy, .inl serving⟩
    · obtain ⟨y, hy, serving | ⟨hacts, waiting, more⟩⟩ := ih waiting
      · exact ⟨y, (run_cons_of_next acts hv).trans hy, .inl serving⟩
      · exact ⟨y, (run_cons_of_next acts hv).trans hy,
          .inr ⟨by simp [ha.symm, hacts], waiting, more ∘ noFault⟩⟩

/-! ### The digests read -/

/-- The messages before the first one that is too large. -/
def supportedPrefix (ms : List (List Byte)) : List (List Byte) := ms.takeWhile fun m => decide (m.length < 2 ^ 61)

theorem exists_mapM_hashMessage {l : List (List Byte)} (h : ∀ m ∈ l, m.length < 2 ^ 61) :
    ∃ xs, l.mapM hashMessage = .ok xs := by
  induction l with
  | nil => exact ⟨[], rfl⟩
  | cons m l ih =>
    obtain ⟨xs, hxs⟩ := ih fun n hn => h n (List.mem_cons_of_mem m hn)
    obtain ⟨bs, hbs⟩ := exists_messageBlocks (h m List.mem_cons_self)
    exact ⟨_, by rw [List.mapM_cons, hashMessage_of_blocks hbs, hxs]; rfl⟩

theorem supported_of_mapM_hashMessage {l : List (List Byte)} {xs : List (List Char)}
    (h : l.mapM hashMessage = .ok xs) : ∀ m ∈ l, m.length < 2 ^ 61 := by
  induction l generalizing xs with
  | nil => simp
  | cons m l ih =>
    rw [List.mapM_cons] at h
    rcases Nat.lt_or_ge m.length (2 ^ 61) with hm | hm
    · obtain ⟨bs, hbs⟩ := exists_messageBlocks hm
      cases hl : l.mapM hashMessage with
      | ok ys => exact List.forall_mem_cons.mpr ⟨hm, ih hl⟩
      | error c => rw [hashMessage_of_blocks hbs, hl] at h; cases h
    · rw [hashMessage_of_large hm] at h
      cases h

theorem mapM_hashMessage_append {l k : List (List Byte)} {xs ys : List (List Char)} (hl : l.mapM hashMessage = .ok xs)
    (hk : k.mapM hashMessage = .ok ys) : (l ++ k).mapM hashMessage = .ok (xs ++ ys) := by
  simp only [List.mapM_append, hl, hk]
  rfl

theorem supportedPrefix_append {fin : List (List Byte)} (hfin : ∀ m ∈ fin, m.length < 2 ^ 61)
    (rest : List (List Byte)) : supportedPrefix (fin ++ rest) = fin ++ supportedPrefix rest :=
  List.takeWhile_append_of_pos fun m hm => decide_eq_true (hfin m hm)

theorem supportedPrefix_supported (ms : List (List Byte)) : ∀ m ∈ supportedPrefix ms, m.length < 2 ^ 61 :=
  fun _ hm => of_decide_eq_true (List.mem_takeWhile_imp (p := fun m : List Byte => decide (m.length < 2 ^ 61)) hm)

theorem supportedPrefix_of_large {m : List Byte} (hm : 2 ^ 61 ≤ m.length) (post : List (List Byte)) :
    supportedPrefix (m :: post) = [] :=
  List.takeWhile_cons_of_neg (by simpa using hm)

/-- The digests read are the first ones of the supported messages; an error is reported at a message that is too large,
when all before it are hashed. -/
theorem Accounted.digests {ms : List (List Byte)} {w : HostWork} (h : Accounted ms w) :
    ∃ all, (supportedPrefix ms).mapM hashMessage = .ok all ∧ w.digests.map hex = all.take w.digests.length ∧
      ∀ c, w.report = some c →
        c = .unsupportedInput ∧ (∃ m ∈ ms, 2 ^ 61 ≤ m.length) ∧ w.digests.length = all.length := by
  cases h with
  | going fin hfin hreport hms =>
    rw [List.append_assoc] at hms
    obtain ⟨ys, hys⟩ := exists_mapM_hashMessage (supportedPrefix_supported (w.begun.toList ++ w.later))
    refine ⟨w.digests.map hex ++ ys, ?_, by simp, by simp [hreport]⟩
    rw [hms, supportedPrefix_append (supported_of_mapM_hashMessage hfin)]
    exact mapM_hashMessage_append hfin hys
  | stopped fin post m hfin hreport hms hm hbegun hlater =>
    refine ⟨w.digests.map hex, ?_, by simp, fun c hc => ?_⟩
    · rw [hms, supportedPrefix_append (supported_of_mapM_hashMessage hfin), supportedPrefix_of_large hm,
        List.append_nil]
      exact hfin
    · obtain rfl := Option.some.inj (hreport.symm.trans hc)
      exact ⟨rfl, ⟨m, by simp [hms], hm⟩, by simp⟩

/-! ### The same moves as a list on the ports (D8) -/

theorem advance_withPending (here after : Phase) (s : State) (es : List HostEvent) :
    advance here after { s with pending := es } = { advance here after s with pending := es } := by
  by_cases ht : s.t = 63
  · rw [advance_of_last here after ht, advance_of_last here after (s := { s with pending := es }) ht]
    rfl
  · rw [advance_of_not_last here after ht, advance_of_not_last here after (s := { s with pending := es }) ht]
    rfl

/-- No operation looks at the host's moves to come. -/
theorem exec_withPending {i : Instr} {s u : State} (h : exec i s = .next u) (es : List HostEvent) :
    exec i { s with pending := es } = .next { u with pending := es } := by
  cases i with
  | nop | init | rsvd3 | ldreg cc | feed cc | halt cc => cases h; rfl
  | block =>
    by_cases ho : s.isOpen = true
    · cases (exec_block_open ho).symm.trans h
      rw [exec_block_open (s := { s with pending := es }) ho]
      rfl
    · have hc : s.isOpen = false := Bool.eq_false_of_not_eq_true ho
      cases (exec_block_closed hc).symm.trans h
      rw [exec_block_closed (s := { s with pending := es }) hc]
      rfl
  | round cc =>
    cases h
    exact congrArg Host.Outcome.next (advance_withPending .round .feed (writeWr _ s) es)
  | sched cc =>
    by_cases ht : 16 ≤ s.t.toNat
    · cases (exec_sched cc ht).symm.trans h
      rw [exec_sched (s := { s with pending := es }) cc ht]
      exact congrArg Host.Outcome.next (advance_withPending .sched .ldreg (writeW _ s) es)
    · cases (exec_sched_stops cc (Nat.lt_of_not_le ht)).symm.trans h

/-- A step takes the first move and leaves the others. -/
theorem step_cons_of_step {s u : State} {e : HostEvent} (h : step { s with pending := [e] } = .next u)
    (es : List HostEvent) : step { s with pending := e :: es } = .next { u with pending := es } := by
  cases e with
  | reset =>
    rw [step_of_reset rfl] at h ⊢
    cases h
    rfl
  | drive c b =>
    rw [step_of_drive rfl] at h ⊢
    exact exec_withPending h es

/-- A lawful host and its core, before the first reset with no fault or after it. -/
def Lawful (ms : List (List Byte)) (x : Session) : Prop :=
  Serving ms x.host x.core ∨ Waiting ms x ∧ x.core.phase ≠ .fault

theorem Lawful.noFault {ms : List (List Byte)} {x : Session} (h : Lawful ms x) : x.core.phase ≠ .fault :=
  h.elim Serving.noFault And.right

theorem Lawful.inv {ms : List (List Byte)} {x : Session} (h : Lawful ms x) : Inv x.core :=
  h.elim Serving.inv fun hw => hw.1.inv

theorem Lawful.act {ms : List (List Byte)} {x : Session} (h : Lawful ms x) (a : HostAct) :
    ∃ y, x.act a = .next y ∧ Lawful ms y := by
  obtain serving | ⟨waiting, hp⟩ := h
  · obtain ⟨y, hy, serving⟩ := serving.act a
    exact ⟨y, hy, .inl serving⟩
  · obtain ⟨y, hy, serving | ⟨-, waiting, noFault⟩⟩ := waiting.act a
    · exact ⟨y, hy, .inl serving⟩
    · exact ⟨y, hy, .inr ⟨waiting, noFault hp⟩⟩

theorem moves_cons_of_next {a : HostAct} {x y : Session} (as : List HostAct) (h : x.act a = .next y) :
    x.moves (a :: as) = x.move a :: y.moves as := by
  simp only [Session.moves, h]

/-- The moves of a lawful session, put on the ports one after the other, are steps of the same core. -/
theorem Lawful.steps_moves {ms : List (List Byte)} {x : Session} (h : Lawful ms x) (acts : List HostAct) {n : Nat}
    (hn : n ≤ (x.moves acts).length) :
    ∃ u, steps n { x.core with pending := x.moves acts } = .next u ∧ u.phase ≠ .fault := by
  induction acts generalizing x n with
  | nil =>
    obtain rfl : n = 0 := Nat.le_zero.mp hn
    exact ⟨_, rfl, h.noFault⟩
  | cons a acts ih =>
    cases n with
    | zero => exact ⟨_, rfl, h.noFault⟩
    | succ n =>
      obtain ⟨v, hv, hact⟩ := act_total a h.inv
      obtain ⟨y, hy, lawful⟩ := h.act a
      obtain rfl : ⟨(x.host.observe x.core).moved x.core a, v⟩ = y := Host.Outcome.next.inj (hact.symm.trans hy)
      rw [moves_cons_of_next acts hy] at hn ⊢
      obtain ⟨u, hu, hpu⟩ := ih lawful (Nat.le_of_succ_le_succ hn)
      exact ⟨u, (steps_succ_of_next n (step_cons_of_step hv _)).trans hu, hpu⟩

/-- Settles O60: a run of the host is `Waiting` and then `Serving`, neither of which is in FAULT, and its digests are those
`Accounted` for; the moves on the ports are the steps of that run. -/
theorem lawfulHostNeverFaults : Obligations.LawfulHostNeverFaults := by
  refine ⟨fun ms acts s hI => ?_, fun s hI hp hduties n hn => ?_⟩
  · have waiting : Waiting ms ⟨HostWork.start ms, s⟩ := ⟨rfl, hI⟩
    obtain ⟨x, hx, serving | ⟨hacts, waiting, noFault⟩⟩ := waiting.run acts
    · refine ⟨x, hx, fun _ => by simpa [faultOut] using serving.noFault, ?_⟩
      exact serving.observe.accounted.digests
    · refine ⟨x, hx, fun hor => ?_, ?_⟩
      · have hp : x.core.phase ≠ .fault := noFault (hor.resolve_right hacts)
        simpa [faultOut] using hp
      · have hobs : x.host.observe x.core = HostWork.start ms := by rw [waiting.host, observe_start]
        rw [Session.results, Session.reported, hobs]
        exact (accounted_start ms).digests
  · obtain ⟨ms, acts, hes⟩ := hduties
    have lawful : Lawful ms ⟨HostWork.start ms, s⟩ := .inr ⟨⟨rfl, hI⟩, hp⟩
    obtain ⟨u, hu, hpu⟩ := lawful.steps_moves acts (hes ▸ hn)
    rw [← hes] at hu
    exact ⟨u, hu, by simpa [faultOut] using hpu⟩

end Sys2Proof.Proofs
end

section
/-! Messages one after another (70_reset_and_hazards.md R192, R201): the number of moves a host that never idles has left
(`movesLeft`) goes down by one with every move, so the sequence ends with every supported message hashed; and the
same messages as a program of steps 1 and 2. -/

namespace Sys2Proof.Proofs
open Sys2Proof.Machine Sys2Proof.Laws

/-! ### The moves left -/

/-- How many moves a message takes: INIT and its blocks (R201). -/
def messageMoves (m : List Byte) : Nat := 1 + Config.stepsPerBlock * ((m.length + 8) / 64 + 1)

/-- How many moves a host that never idles has left: the rest of the block in progress, the blocks not accepted yet, the
messages to come before one that is too large. -/
def movesLeft (w : HostWork) (s : State) : Nat :=
  busySteps s + Config.stepsPerBlock * w.rest.length + ((supportedPrefix w.later).map messageMoves).sum

theorem supportedPrefix_observe (w : HostWork) (s : State) :
    supportedPrefix (w.observe s).later = supportedPrefix w.later := by
  by_cases hp : s.phase = .fault
  · rw [observe_of_fault w hp]
  · have read : (w.readResult s).later = w.later := by
      obtain h | ⟨-, -, -, h⟩ := readResult_cases s w <;> rw [h]
    rw [observe_of_no_fault w hp, ← read]
    obtain h | ⟨m, c, -, -, hhead, herror, h⟩ := refuse_cases (w.readResult s) <;> rw [h]
    obtain ⟨post, hlater⟩ := List.head?_eq_some_iff.mp hhead
    rw [hlater, supportedPrefix_of_large (messageBlocks_eq_error herror).2]
    rfl

theorem observe_rest (w : HostWork) (s : State) : (w.observe s).rest = w.rest := by
  by_cases hp : s.phase = .fault
  · rw [observe_of_fault w hp]
  · rw [observe_of_no_fault w hp, (refuse_begun_rest _).2, readResult_rest]

theorem movesLeft_observe (w : HostWork) (s : State) : movesLeft (w.observe s) s = movesLeft w s := by
  rw [movesLeft, observe_rest, supportedPrefix_observe, movesLeft]

theorem due_eq_none {w : HostWork} (hdue : w.resetDue = false) (h : w.due = none) :
    w.rest = [] ∧ w.nextMessage = none := by
  unfold HostWork.due at h
  rw [hdue] at h
  cases hrest : w.rest with
  | nil => simpa [hrest] using h
  | cons b bs => simp [hrest] at h

theorem supportedPrefix_of_nextMessage_none {w : HostWork} (h : w.nextMessage = none) : supportedPrefix w.later = [] := by
  cases hl : w.later with
  | nil => rfl
  | cons m post =>
    cases hb : messageBlocks m with
    | error c => exact supportedPrefix_of_large (messageBlocks_eq_error hb).2 post
    | ok bs => simp [HostWork.nextMessage, hl, hb] at h

theorem movesLeft_of_due_none {w : HostWork} {s : State} (hdue : w.resetDue = false) (h : w.due = none) :
    movesLeft w s = busySteps s := by
  obtain ⟨hrest, hnext⟩ := due_eq_none hdue h
  simp [movesLeft, hrest, supportedPrefix_of_nextMessage_none hnext]

theorem supportedPrefix_cons {m : List Byte} (hm : m.length < 2 ^ 61) (post : List (List Byte)) :
    supportedPrefix (m :: post) = m :: supportedPrefix post :=
  List.takeWhile_cons_of_pos (decide_eq_true hm)

theorem length_lt_of_messageBlocks {m : List Byte} {bs : List Block} (h : messageBlocks m = .ok bs) :
    m.length < 2 ^ 61 := by
  obtain ⟨p, hp, -⟩ := messageBlocks_eq_ok_iff.mp h
  exact (pad_eq_ok_iff.mp hp).1

theorem Serving.isOpen_of_rest {ms : List (List Byte)} {w : HostWork} {s : State} {b : Block} {bs : List Block}
    (h : Serving ms w s) (hrest : w.rest = b :: bs) : s.isOpen = true := by
  cases h.inHand with
  | none hbegun hnil => simp [hrest] at hnil
  | begun m pre hbegun hblocks heading => exact heading.isOpen

theorem Serving.idle_or_busy {ms : List (List Byte)} {w : HostWork} {s : State} (h : Serving ms w s) :
    s.phase = .idle ∨ busy s := by
  have noFault := h.noFault
  cases hp : s.phase <;> simp_all [busy]

/-- A host that presents its next command always has one move less to make. -/
theorem Serving.movesLeft_move {ms : List (List Byte)} {w v : HostWork} {s u : State} {free : Block} {e : HostEvent}
    (h : Serving ms w s) (hm : Move s w (.request free) e v) (hleft : 0 < movesLeft w s)
    (hu : step { s with pending := [e] } = .next u) : movesLeft v u + 1 = movesLeft w s := by
  cases hm with
  | reset ha => cases ha
  | quiet c shown hold ha hidle =>
    obtain hp | hb := h.idle_or_busy
    · rw [movesLeft_of_due_none h.resetDue (hidle hp).2, busySteps_of_idle hp] at hleft
      cases hleft
    · have heading := (heading_of_busy h.inv hb).withPending [.drive c shown]
      obtain ⟨x, hx, -, left⟩ := heading.step_of_busy hb rfl
      cases hu.symm.trans hx
      have left : busySteps u + 1 = busySteps s := left
      simp only [movesLeft]
      omega
  | begin m bs shown ha hp hrest hnext =>
    obtain ⟨hlater, hblocks⟩ := nextMessage_cons hnext
    obtain ⟨x, hx, -, hpx⟩ := heading_of_init (inv_withPending h.inv [.drive cmdInit shown]) hp rfl
    cases hu.symm.trans hx
    rw [movesLeft, movesLeft, busySteps_of_idle hp, busySteps_of_idle hpx, hrest, hlater,
      supportedPrefix_cons (length_lt_of_messageBlocks hblocks), length_of_messageBlocks hblocks]
    simp only [List.map_cons, List.sum_cons, List.length_nil, List.tail_cons, messageMoves]
    omega
  | block b bs ha hp hrest =>
    obtain ⟨x, hx, accepted⟩ := accepted_of_block (s := { s with pending := [.drive cmdBlock b] }) hp
      (h.isOpen_of_rest hrest) rfl
    cases hu.symm.trans hx
    rw [movesLeft, movesLeft, busySteps_of_idle hp, accepted.left, hrest]
    simp only [List.length_cons, Config.stepsPerBlock]
    omega

/-! ### The sequence of R192 -/

theorem diligent_of_serving {ms : List (List Byte)} {x : Session} (h : Serving ms x.host x.core) :
    x.diligent = .request (Vector.replicate 64 0) := by
  rw [Session.diligent, h.observe.resetDue]
  rfl

/-- Followed for the moves it has left, the sequence has none left. -/
theorem Serving.serve {ms : List (List Byte)} {w : HostWork} {s : State} (h : Serving ms w s) :
    ∃ y, Session.serve (movesLeft w s) ⟨w, s⟩ = .next y ∧ Serving ms y.host y.core ∧ movesLeft y.host y.core = 0 := by
  induction hn : movesLeft w s generalizing w s with
  | zero => exact ⟨⟨w, s⟩, rfl, h, hn⟩
  | succ n ih =>
    have hd := diligent_of_serving (x := ⟨w, s⟩) h
    have hobs : movesLeft (w.observe s) s = n + 1 := (movesLeft_observe w s).trans hn
    have hmove := move_of_event s (w.observe s) (.request (Vector.replicate 64 0))
    obtain ⟨u, hu, hact⟩ := act_total (x := ⟨w, s⟩) (.request (Vector.replicate 64 0)) h.inv
    have left := h.observe.movesLeft_move hmove (by omega) hu
    obtain ⟨y, hy, done⟩ := ih (h.observe.move h.observed hmove hu) (Nat.succ.inj (left.trans hobs))
    exact ⟨y, (serve_succ_of_next n (hd ▸ hact)).trans hy, done⟩

/-- Nothing is in hand and nothing is to come: the host has hashed its messages, or has stopped at an error. -/
structure Finished (w : HostWork) : Prop where
  resetDue : w.resetDue = false
  begun    : w.begun = none
  rest     : w.rest = []
  later    : w.later = []

theorem Serving.finished {ms : List (List Byte)} {w : HostWork} {s : State} (h : Serving ms w s)
    (hleft : movesLeft w s = 0) : s.phase = .idle ∧ Finished (w.observe s) := by
  have steps : busySteps s = 0 := by rw [movesLeft] at hleft; omega
  have hp : s.phase = .idle := h.idle_or_busy.resolve_right fun hb => by
    have pos := (busySteps_bounds (working_of_inv h.inv hb)).1
    omega
  have rest : w.rest = [] := by
    rw [← List.length_eq_zero_iff]
    simp only [movesLeft, Config.stepsPerBlock] at hleft
    omega
  obtain ⟨read, checked⟩ := h.observed
  have hrest : (w.observe s).rest = [] := (observe_rest w s).trans rest
  have begun := read hp hrest
  refine ⟨hp, h.observe.resetDue, begun, hrest, ?_⟩
  cases hl : (w.observe s).later with
  | nil => rfl
  | cons m post =>
    have hm : m.length < 2 ^ 61 := checked begun m (by simp [hl])
    have pos : 0 < movesLeft w s := by
      rw [movesLeft, ← supportedPrefix_observe w s, hl, supportedPrefix_cons hm, List.map_cons, List.sum_cons, messageMoves]
      omega
    omega

/-- At the end every message before one that is too large is hashed, and an error is reported just when there is one. -/
theorem Accounted.finished {ms : List (List Byte)} {w : HostWork} (h : Accounted ms w) (hw : Finished w) :
    (supportedPrefix ms).mapM hashMessage = .ok (w.digests.map hex) ∧
    (w.report = none ∧ supportedPrefix ms = ms ∨
      w.report = some .unsupportedInput ∧ supportedPrefix ms ≠ ms) := by
  cases h with
  | going fin hfin hreport hms =>
    have all : ms = fin := by simpa [hw.begun, hw.later] using hms
    have whole := supportedPrefix_append (supported_of_mapM_hashMessage hfin) []
    rw [List.append_nil, ← all] at whole
    have whole : supportedPrefix ms = ms := whole.trans (List.append_nil ms)
    exact ⟨by rw [whole, all]; exact hfin, .inl ⟨hreport, whole⟩⟩
  | stopped fin post m hfin hreport hms hm hbegun hlater =>
    have cut : supportedPrefix ms = fin := by
      rw [hms, supportedPrefix_append (supported_of_mapM_hashMessage hfin), supportedPrefix_of_large hm, List.append_nil]
    exact ⟨by rw [cut]; exact hfin, .inr ⟨hreport, by rw [cut, hms]; simp⟩⟩

/-- The sequence begins with the reset event. -/
theorem serve_start_succ (ms : List (List Byte)) (s : State) :
    ∃ c, (∀ n, Session.serve (n + 1) ⟨HostWork.start ms, s⟩ = Session.serve n ⟨(HostWork.start ms).afterReset, c⟩) ∧
      c.phase = .idle ∧ c.isOpen = false ∧ Serving ms (HostWork.start ms).afterReset c := by
  have hdiligent : Session.diligent ⟨HostWork.start ms, s⟩ = .reset := by
    rw [Session.diligent, observe_start]
    rfl
  have hact := act_reset ⟨HostWork.start ms, s⟩
  rw [observe_start, ← hdiligent] at hact
  exact ⟨_, fun n => serve_succ_of_next n hact, rfl, rfl, serving_after_reset ms _⟩

/-- What the sequence of R192 comes to, from any state: it resets once and hashes the messages before one that is too
large. -/
theorem serve_start (ms : List (List Byte)) (s : State) :
    ∃ x, Session.serve (sessionMoves (supportedPrefix ms)) ⟨HostWork.start ms, s⟩ = .next x ∧
      Serving ms x.host x.core ∧ movesLeft x.host x.core = 0 ∧ (supportedPrefix ms = [] → x.core.isOpen = false) := by
  obtain ⟨c, hserve, hp, hopen, serving⟩ := serve_start_succ ms s
  have left : movesLeft (HostWork.start ms).afterReset c = ((supportedPrefix ms).map messageMoves).sum := by
    rw [movesLeft, busySteps_of_idle hp]
    exact Nat.zero_add _
  obtain ⟨x, hx, final, hleft⟩ := serving.serve
  rw [left] at hx
  refine ⟨x, ?_, final, hleft, fun hnil => ?_⟩
  · rw [sessionMoves, Nat.add_comm, hserve]
    exact hx
  · rw [hnil] at hx
    cases hx
    exact hopen

/-- A host that has finished asks for nothing more, however long it is followed, and the core stays. -/
theorem serve_of_finished {x : Session} (hp : x.core.phase = .idle) (hw : Finished (x.host.observe x.core)) (k : Nat) :
    ∃ y, x.serve k = .next y ∧ elements y.core = elements x.core ∧
      y.host.observe y.core = x.host.observe x.core := by
  generalize hv : x.host.observe x.core = v at hw
  obtain ⟨hdue, hbegun, hrest, hlater⟩ := hw
  have noDue : v.due = none := by simp [HostWork.due, hdue, hrest, HostWork.nextMessage, hlater]
  have still (u : State) (hpu : u.phase = .idle) : v.observe u = v := by
    rw [observe_of_no_fault v (by simp [hpu])]
    simp [HostWork.readResult, HostWork.refuse, hbegun, hlater]
  induction k generalizing x with
  | zero => exact ⟨x, rfl, rfl, hv⟩
  | succ k ih =>
    have hrequest : x.diligent = .request (Vector.replicate 64 0) := by
      rw [Session.diligent, hv, hdue]
      rfl
    have hnone : v.presented x.diligent = none := by rw [hrequest]; exact noDue
    have hmove : x.move x.diligent = .drive cmdNop (Vector.replicate 64 0) := by
      rw [Session.move, hv, hrequest]
      simp [HostWork.event, HostWork.presented, noDue]
    obtain ⟨u, hu⟩ := step_total (s := { x.core with pending := [x.move x.diligent] }) (by simp [hp])
    have hact := act_of_next hu
    rw [hv, moved_of_presented_none (by simp [hrequest]) hnone] at hact
    have same : elements u = elements x.core := by
      rw [hmove] at hu
      exact elements_of_step_nop (s := { x.core with pending := [.drive cmdNop (Vector.replicate 64 0)] }) hp rfl hu
    have hpu : u.phase = .idle := (congrArg Elements.phase same).trans hp
    obtain ⟨y, hy, helems, hobs⟩ := ih (x := ⟨v, u⟩) hpu (still u hpu)
    exact ⟨y, (serve_succ_of_next k hact).trans hy, helems.trans same, hobs⟩

/-- Found with `fault` = 1 the host resets, and the message begun stands first among those to come (R192 step 3). -/
theorem serve_of_fault (w : HostWork) {s : State} (hp : s.phase = .fault) :
    Session.serve 1 ⟨w, s⟩ =
      .next ⟨{ w with resetDue := true, holding := false }.afterReset, resetEvent { s with pending := [] }⟩ := by
  have hdiligent : Session.diligent ⟨w, s⟩ = .reset := by
    rw [Session.diligent, observe_of_fault w hp]
    rfl
  have hact := act_reset ⟨w, s⟩
  rw [observe_of_fault w hp, ← hdiligent] at hact
  exact serve_succ_of_next 0 hact

/-! ### The same messages as a program (R79, R192 steps 1 and 2) -/

/-- HASH, WAIT and DIGEST read the digest of their message. -/
theorem runProgram_hash {s : State} {m : List Byte} (hI : Inv s) (hp : s.phase = .idle) (hm : m.length < 2 ^ 61)
    (ls : List TraceLine) :
    ∃ u d, Inv u ∧ u.phase = .idle ∧ hashMessage m = .ok (hex d) ∧
      runProgram (.hash m :: .item .wait :: .digest :: ls) s =
        (runProgram ls u).map fun r => (r.1, d :: r.2) := by
  obtain ⟨bs, h⟩ := exists_messageBlocks hm
  obtain ⟨v, hv, heading⟩ := runItems_hash hI hp h
  obtain ⟨u, hu, done, hpu⟩ := heading.wait
  have hread := (done.complete hpu).2
  refine ⟨u, digestOf bs, done.inv, hpu, hashMessage_eq_hex_digestOf h, ?_⟩
  have hash : runLine (.hash m) s = .ok (v, none) := by
    simp only [runLine, hashItems_of_blocks h, hv, hostResult, Except.map]
  have wait : runLine (.item .wait) v = .ok (u, none) := by
    simp only [runLine, runItem, hu, hostResult, Except.map]
  have digest : runLine .digest u = .ok (u, some (digestOf bs)) := by
    simp only [runLine, hread, digestOf]
  simp only [runProgram, hash, wait, digest]
  cases runProgram ls u <;> rfl

theorem runProgram_hash_of_large {s : State} {m : List Byte} (hm : 2 ^ 61 ≤ m.length) (ls : List TraceLine) :
    runProgram (.hash m :: ls) s = .error (.cause .unsupportedInput) := by
  simp only [runProgram, runLine, hashItems_of_large hm]

/-- The lines of one message of a session. -/
def messageLines (m : List Byte) : List TraceLine := [.hash m, .item .wait, .digest]

/-- The lines of supported messages read their digests; what follows them runs from an idle core. -/
theorem runProgram_messages {s : State} {ms : List (List Byte)} (hI : Inv s) (hp : s.phase = .idle)
    (hms : ∀ m ∈ ms, m.length < 2 ^ 61) (ls : List TraceLine) :
    ∃ u ds, Inv u ∧ u.phase = .idle ∧ ms.mapM hashMessage = .ok (ds.map hex) ∧
      runProgram (ms.flatMap messageLines ++ ls) s = (runProgram ls u).map fun r => (r.1, ds ++ r.2) := by
  induction ms generalizing s with
  | nil =>
    refine ⟨s, [], hI, hp, rfl, ?_⟩
    rw [List.flatMap_nil, List.nil_append]
    cases runProgram ls s <;> rfl
  | cons m ms ih =>
    obtain ⟨hm, hms⟩ := List.forall_mem_cons.mp hms
    obtain ⟨v, d, hIv, hpv, hash, hrun⟩ := runProgram_hash hI hp hm (ms.flatMap messageLines ++ ls)
    obtain ⟨u, ds, hIu, hpu, hashes, hrest⟩ := ih hIv hpv hms
    refine ⟨u, d :: ds, hIu, hpu, by rw [List.mapM_cons, hash, hashes]; rfl, ?_⟩
    rw [List.flatMap_cons, List.append_assoc, messageLines]
    simp only [List.cons_append, List.nil_append, hrun, hrest]
    cases runProgram ls u <;> rfl

/-- RESET in front of a program starts it from an idle core, whatever state it found. -/
theorem runProgram_reset (s : State) (ls : List TraceLine) :
    ∃ u, Inv u ∧ u.phase = .idle ∧ runProgram (.item .reset :: ls) s = runProgram ls u := by
  refine ⟨_, inv_resetEvent { s with pending := [] }, rfl, ?_⟩
  have reset : runItem .reset s = .next (resetEvent { s with pending := [] }) :=
    step_of_reset (s := { s with pending := [.reset] }) rfl
  simp only [runProgram, runLine, reset, hostResult, Except.map]
  cases runProgram ls (resetEvent { s with pending := [] }) <;> rfl

theorem runProgram_hostSession {ms : List (List Byte)} (hms : ∀ m ∈ ms, m.length < 2 ^ 61) (s : State) :
    ∃ u ds, runProgram (hostSession ms) s = .ok (u, ds) ∧ faultOut u = false ∧
      ms.mapM hashMessage = .ok (ds.map hex) := by
  obtain ⟨v, hIv, hpv, hreset⟩ := runProgram_reset s (ms.flatMap messageLines)
  obtain ⟨u, ds, -, hpu, hashes, hrun⟩ := runProgram_messages hIv hpv hms []
  rw [List.append_nil] at hrun
  refine ⟨u, ds, (hreset.trans hrun).trans ?_, by simp [faultOut, hpu], hashes⟩
  simp only [runProgram, waitReady_of_not_busy (.inl hpu), hostResult, Except.map, List.append_nil]

theorem runProgram_hostSession_of_large {ms post : List (List Byte)} {m : List Byte}
    (hms : ∀ n ∈ ms, n.length < 2 ^ 61) (hm : 2 ^ 61 ≤ m.length) (s : State) :
    runProgram (hostSession (ms ++ m :: post)) s = .error (.cause .unsupportedInput) := by
  obtain ⟨v, hIv, hpv, hreset⟩ := runProgram_reset s ((ms ++ m :: post).flatMap messageLines)
  obtain ⟨u, ds, -, -, -, hrun⟩ := runProgram_messages hIv hpv hms ((m :: post).flatMap messageLines)
  rw [← List.flatMap_append] at hrun
  refine (hreset.trans hrun).trans ?_
  rw [List.flatMap_cons, messageLines, List.cons_append, runProgram_hash_of_large hm]
  rfl

/-! ### Both together -/

theorem supportedPrefix_of_supported {ms : List (List Byte)} (hms : ∀ m ∈ ms, m.length < 2 ^ 61) :
    supportedPrefix ms = ms := by
  have whole := supportedPrefix_append hms []
  rw [List.append_nil] at whole
  exact whole.trans (List.append_nil ms)

/-- Settles O51: the program line by line, the sequence by the moves it has left. -/
theorem sessionReadsEveryDigest : Obligations.SessionReadsEveryDigest := by
  refine ⟨fun s ms hms => ⟨runProgram_hostSession hms s, ?_⟩,
    fun s ms post m hms hm => ⟨runProgram_hostSession_of_large hms hm s, ?_⟩, fun w s hp => ?_⟩
  · obtain ⟨x, hx, serving, hleft, -⟩ := serve_start ms s
    obtain ⟨hp, finished⟩ := serving.finished hleft
    obtain ⟨hashed, ⟨hnone, -⟩ | ⟨-, hcut⟩⟩ := serving.observe.accounted.finished finished
    · rw [supportedPrefix_of_supported hms] at hx hashed
      exact ⟨x, hx, by simp [ready, hp], by simp [faultOut, hp], hnone, hashed⟩
    · exact absurd (supportedPrefix_of_supported hms) hcut
  · have hprefix : supportedPrefix (ms ++ m :: post) = ms := by
      rw [supportedPrefix_append hms, supportedPrefix_of_large hm, List.append_nil]
    obtain ⟨x, hx, serving, hleft, hclosed⟩ := serve_start (ms ++ m :: post) s
    obtain ⟨hp, finished⟩ := serving.finished hleft
    obtain ⟨hashed, ⟨-, hwhole⟩ | ⟨hreport, -⟩⟩ := serving.observe.accounted.finished finished
    · rw [hprefix] at hwhole
      simp at hwhole
    · rw [hprefix] at hx hashed hclosed
      refine ⟨x, hx, by simp [ready, hp], by simp [faultOut, hp], hreport, hashed, hclosed, fun k => ?_⟩
      obtain ⟨y, hy, same, hobs⟩ := serve_of_finished hp finished k
      refine ⟨y, hy, same, ?_, ?_⟩
      · rw [Session.results, hobs, Session.results]
      · rw [Session.reported, hobs]
        exact hreport
  · exact ⟨_, serve_of_fault w hp, rfl, rfl, rfl, rfl, rfl, rfl⟩

end Sys2Proof.Proofs
end

section
/-! The text of a trace (30_encoding.md R78, R79): each written line begins with its keyword, whose reader gives the line
back; and the encoding of an item is what stands on the ports when it runs. -/

namespace Sys2Proof.Proofs
open Sys2Proof.Machine Sys2Proof.Laws

/-! ### Digits -/

theorem skipSpaces_of_head {c : Char} (hc : c ≠ ' ') (cs : List Char) : skipSpaces (c :: cs) = c :: cs :=
  List.dropWhile_cons_of_neg (by simpa using hc)

theorem hexDigit_ne_space (n : BitVec 4) : hexDigit n ≠ ' ' := by
  revert n
  decide

theorem skipSpaces_flatMap_hexByte (l : List Byte) : skipSpaces (l.flatMap hexByte) = l.flatMap hexByte := by
  cases l with
  | nil => rfl
  | cons b l => exact skipSpaces_of_head (hexDigit_ne_space _) _

/-- The character of a decimal digit. -/
def digitChar (d : Nat) : Char := Char.ofNat (48 + d)

theorem digitChar_spec : ∀ d < 10, (digitChar d).isDigit = true ∧ (digitChar d).toNat - 48 = d ∧
    digitChar d ≠ ' ' ∧ digitChar d ≠ ';' := by decide

theorem decimalDigits_eq (n : Nat) : decimalDigits n = (Nat.digits 10 n).reverse.map digitChar := rfl

theorem isDigit_of_mem_decimalDigits {n : Nat} {c : Char} (hc : c ∈ decimalDigits n) :
    c.isDigit = true ∧ c ≠ ' ' ∧ c ≠ ';' := by
  rw [decimalDigits_eq] at hc
  obtain ⟨d, hd, rfl⟩ := List.mem_map.mp hc
  obtain ⟨hdigit, -, hspace, hsemi⟩ := digitChar_spec d (Nat.digits_lt_base (by decide) (List.mem_reverse.mp hd))
  exact ⟨hdigit, hspace, hsemi⟩

/-- Reading goes from the highest digit down, so the digits come lowest first into the number. -/
theorem decimalValue_reverse {ds : List Nat} (hds : ∀ d ∈ ds, d < 10) :
    decimalValue (ds.reverse.map digitChar) = Nat.ofDigits 10 ds := by
  induction ds with
  | nil => rfl
  | cons d ds ih =>
    obtain ⟨hd, hds⟩ := List.forall_mem_cons.mp hds
    have last := (digitChar_spec d hd).2.1
    rw [decimalValue] at ih ⊢
    rw [List.reverse_cons, List.map_append, List.foldl_append, ih hds, Nat.ofDigits_cons]
    simp only [List.map_cons, List.map_nil, List.foldl_cons, List.foldl_nil, last]
    exact Nat.add_comm _ _

theorem decimalValue_decimalDigits (n : Nat) : decimalValue (decimalDigits n) = n := by
  rw [decimalDigits_eq, decimalValue_reverse fun d hd => Nat.digits_lt_base (by decide) hd, Nat.ofDigits_digits]

theorem exists_cons_decimalDigits {n : Nat} (hn : 1 ≤ n) :
    ∃ c cs, decimalDigits n = c :: cs ∧ c ≠ ' ' ∧ c ≠ ';' := by
  have nonempty : decimalDigits n ≠ [] := by
    rw [decimalDigits_eq, Ne, List.map_eq_nil_iff, List.reverse_eq_nil_iff]
    exact Nat.digits_ne_nil_iff_ne_zero.mpr (Nat.ne_of_gt hn)
  obtain ⟨c, cs, h⟩ := List.exists_cons_of_ne_nil nonempty
  obtain ⟨-, hspace, hsemi⟩ := isDigit_of_mem_decimalDigits (n := n) (c := c) (by rw [h]; exact List.mem_cons_self)
  exact ⟨c, cs, h, hspace, hsemi⟩

/-! ### The argument of each keyword -/

theorem parseBlock_print (b : Block) : parseBlock (' ' :: b.toList.flatMap hexByte) = some (.item (.block b)) := by
  have hb : listBlock b.toList = .ok b := listBlock_eq_ok_iff.mpr rfl
  simp only [parseBlock, argument, skipSpaces_flatMap_hexByte, Option.bind_some, takeHex_flatMap_hexByte, hb]
  rfl

theorem parseHash_print (m : List Byte) : parseHash (' ' :: 'x' :: m.flatMap hexByte) = some (.hash m) := by
  have hx : skipSpaces ('x' :: m.flatMap hexByte) = 'x' :: m.flatMap hexByte := skipSpaces_of_head (by decide) _
  simp only [parseHash, argument, hx, Option.bind_some, takeHex_flatMap_hexByte]
  rfl

theorem parseNop_print {n : Nat} (hn : 1 ≤ n) : parseNop (' ' :: decimalDigits n) = some (.item (.nop n)) := by
  obtain ⟨c, cs, hcs, hspace, hsemi⟩ := exists_cons_decimalDigits hn
  have digits : ∀ d ∈ decimalDigits n, d.isDigit = true := fun d hd => (isDigit_of_mem_decimalDigits hd).1
  have start : skipSpaces (decimalDigits n) = decimalDigits n := by rw [hcs, skipSpaces_of_head hspace]
  have more : atEnd (' ' :: decimalDigits n) = false := by
    have skip : skipSpaces (' ' :: decimalDigits n) = c :: cs := start.trans hcs
    simp only [atEnd, skip]
    simpa using hsemi
  have all : (decimalDigits n).takeWhile Char.isDigit = decimalDigits n := List.takeWhile_eq_self_iff.mpr digits
  have rest : (decimalDigits n).dropWhile Char.isDigit = [] := List.dropWhile_eq_nil_iff.mpr digits
  rw [parseNop, more]
  simp only [argument, start, all, rest, decimalValue_decimalDigits, Option.bind_some, hn, if_true]
  rfl

/-! ### Lines -/

/-- The reader of the line's keyword gives the line back, and no other keyword begins it. -/
theorem parseLine_printLine {l : TraceLine} (hl : l.wellFormed = true) : parseLine (printLine l) = some l := by
  cases l with
  | digest => decide
  | hash m => simp [parseLine, printLine, keywords, skipSpaces, List.isPrefixOf?, parseHash_print]
  | item i =>
    cases i with
    | reset | init | rsvd3 | wait => decide
    | block b => simp [parseLine, printLine, keywords, skipSpaces, List.isPrefixOf?, parseBlock_print]
    | nop n =>
      have hn : 1 ≤ n := of_decide_eq_true hl
      simp [parseLine, printLine, keywords, skipSpaces, List.isPrefixOf?, parseNop_print hn]

/-! ### The encoding of an item -/

theorem runItem_of_ready {i : TraceItem} {c : CmdCode} {b : Option Block} {s : State} (hr : ready s = true)
    (hi : runItem i s = present c b s) : runItem i s = stepWith c (b.getD s.blockIn) s :=
  have hp := ready_eq_true_iff.mp hr
  hi.trans (present_of_wait (waitReady_of_not_busy (.inl hp)) hp)

/-- Settles O58: lines by `parseLine_printLine`; an item but NOP and WAIT is presented at once when the core is ready. -/
theorem traceLinesReadBack : Obligations.TraceLinesReadBack := by
  refine ⟨fun l => parseLine_printLine, fun i c bytes hi hc => ?_⟩
  cases i with
  | reset => cases hi
  | nop n | wait => cases hi; exact absurd rfl hc
  | init | rsvd3 =>
    cases hi
    refine ⟨by decide, fun j hj => ?_, fun s hr => ⟨_, runItem_of_ready (b := none) hr rfl, by simp⟩⟩
    cases j <;> simp [itemEncoding] at hj ⊢
  | block b =>
    cases hi
    refine ⟨by simp, fun j hj => ?_, fun s hr => ⟨_, runItem_of_ready (b := some b) hr rfl, by simp⟩⟩
    cases j <;> simp [itemEncoding] at hj ⊢
    exact Vector.toList_inj.mp hj

end Sys2Proof.Proofs
end

section
/-! The decode word (30_encoding.md R70, R72, R75): encoder, decoder, and what a step runs. -/

namespace Sys2Proof.Proofs
open Sys2Proof.Machine Sys2Proof.Laws

/-! ### Encoder and decoder -/

theorem decode_encode (i : Instr) : decode (encode i) = .ok i := by
  cases i with
  | nop | init | block | rsvd3 => decide
  | sched cc | ldreg cc | round cc | feed cc | halt cc => revert cc; decide

theorem encode_of_decode {dw : DecodeWord} {i : Instr} (h : decode dw = .ok i) : encode i = dw := by
  have back : ∀ dw : DecodeWord, ((decode dw).toOption.map encode).getD dw = dw := by decide
  simpa [h, Except.toOption] using back dw

theorem tableWord_toNat (dw : DecodeWord) : tableWord 8 dw.toNat = some dw := by
  revert dw
  decide

/-- Settles O1: both round trips, and a decode word is the table word of its number. -/
theorem decodeInvertsEncode : Obligations.DecodeInvertsEncode := by
  refine ⟨decode_encode, fun dw i => encode_of_decode, fun i => ?_⟩
  simp only [decodeTableWord, tableWord_toNat, decode_encode]

/-- A decode word is its two fields side by side (R70). -/
theorem phaseField_append_cmdField (dw : DecodeWord) : phaseField dw ++ cmdField dw = dw := by
  revert dw
  decide

theorem decode_of_phaseField {dw : DecodeWord} {p : Phase} (h : phaseField dw = phaseCode p) :
    decode dw = .ok (selected p (cmdField dw)) := by
  rw [← phaseField_append_cmdField dw, h, decode_phaseCode_append, ← h, phaseField_append_cmdField]

theorem decode_unreachable (c : CmdCode) :
    decode (0b101#3 ++ c) = .error (.unreachablePhase 0b101#3) ∧
    decode (0b110#3 ++ c) = .error (.unreachablePhase 0b110#3) := by
  revert c
  decide

/-- Settles O2: six phase codes select as `selected` says, the other two nothing. -/
theorem decodeTableIsTotal : Obligations.DecodeTableIsTotal := by
  intro dw
  have idle (c : CmdCode) (hp : phaseField dw = 0b000#3) (hc : cmdField dw = c) :
      decode dw = .ok (selected .idle c) := hc ▸ decode_of_phaseField (p := .idle) hp
  refine ⟨idle 0b00#2, idle 0b01#2, idle 0b10#2, idle 0b11#2, decode_of_phaseField (p := .sched),
    decode_of_phaseField (p := .ldreg), decode_of_phaseField (p := .round), decode_of_phaseField (p := .feed),
    fun hp => ?_, fun hp => ?_, decode_of_phaseField (p := .fault)⟩
  · rw [← phaseField_append_cmdField dw, hp]
    exact (decode_unreachable _).1
  · rw [← phaseField_append_cmdField dw, hp]
    exact (decode_unreachable _).2

/-- Settles O3: each word is evaluated. -/
theorem writtenWordsDecode : Obligations.WrittenWordsDecode := by
  unfold Obligations.WrittenWordsDecode
  decide

/-! ### What a step runs -/

theorem selected_of_decode {p : Phase} {c : CmdCode} {i : Instr} (h : decode (phaseCode p ++ c) = .ok i) :
    selected p c = i :=
  Except.ok.inj ((decode_phaseCode_append p c).symm.trans h)

/-- Settles O4: the operation selected is the one decoded. -/
theorem stepRunsDecodedInstruction : Obligations.StepRunsDecodedInstruction :=
  ⟨fun _ _ _ _ _ hes hi => selected_of_decode hi ▸ step_of_drive hes,
    fun _ _ hes hi => selected_of_decode hi ▸ step_of_silent hes, fun _ _ => step_of_reset⟩

theorem exists_phase_of_encode (i : Instr) : ∃ p, phaseCode p = phaseField (encode i) := by
  cases i with
  | nop | init | block | rsvd3 => exact ⟨.idle, by decide⟩
  | sched cc => exact ⟨.sched, by revert cc; decide⟩
  | ldreg cc => exact ⟨.ldreg, by revert cc; decide⟩
  | round cc => exact ⟨.round, by revert cc; decide⟩
  | feed cc => exact ⟨.feed, by revert cc; decide⟩
  | halt cc => exact ⟨.fault, by revert cc; decide⟩

/-- Settles O5: the phase and the command placed are the fields of the word, so the step selects its operation. -/
theorem placedWordRunsNext : Obligations.PlacedWordRunsNext := by
  intro i s
  obtain ⟨p, hp⟩ := exists_phase_of_encode i
  have selects : selected p (cmdField (encode i)) = i :=
    selected_of_decode (by rw [hp, phaseField_append_cmdField, decode_encode])
  refine ⟨p, if s.phase = p then s.t else entryIndex p, hp, fun h => if_pos h, fun h => if_neg h, ?_⟩
  have placed : s.withFetchWord 8 (encode i).toNat =
      { s with
        phase := p
        t := if s.phase = p then s.t else entryIndex p
        pending := .drive (cmdField (encode i)) s.blockIn :: s.pending } := by
    simp only [State.withFetchWord, tableWord_toNat, ← hp, phaseOfCode_phaseCode]
  rw [placed, step_of_drive rfl, selects]
  rfl

end Sys2Proof.Proofs
end

section
/-! The outputs (10_state.md R33), the reset event (70_reset_and_hazards.md R190), and SCHED below index 16, where the
model stops. -/

namespace Sys2Proof.Proofs
open Sys2Proof.Machine Sys2Proof.Laws

/-! ### Outputs (R33) -/

/-- Settles O18: each output is read off its field. -/
theorem outputsOfState : Obligations.OutputsOfState := fun _ =>
  ⟨ready_eq_true_iff, rfl, rfl, by simp [faultOut], rfl, rfl⟩

/-! ### SCHED below index 16 (log entry 6) -/

/-- Settles O24: `exec_sched_stops`. -/
theorem schedBelowSixteenStops : Obligations.SchedBelowSixteenStops := fun _ cc => exec_sched_stops cc

/-! ### The reset event (R190) -/

/-- With `open` = 0 a BLOCK in phase IDLE is the fault of R163. -/
theorem stepWith_block_closed {s : State} (b : Block) (hp : s.phase = .idle) (ho : s.isOpen = false) :
    ∃ v, stepWith cmdBlock b s = .next v ∧ v.phase = .fault ∧ v.fcode = 4 := by
  have hi : selected s.phase cmdBlock = .block := by rw [hp]; decide
  rw [stepWith_eq_exec, hi]
  exact ⟨_, exec_block_closed ho, rfl, rfl⟩

/-- Settles O29: the fields `resetEvent` writes. -/
theorem resetEventLeaves : Obligations.ResetEventLeaves :=
  ⟨fun _ _ hes => ⟨_, step_of_reset hes, rfl, rfl, rfl, rfl, rfl, rfl, rfl, rfl, rfl, rfl,
      fun b => stepWith_block_closed b rfl rfl⟩,
    rfl, rfl, rfl, rfl, rfl⟩

end Sys2Proof.Proofs
end

section
/-! CH and MAJ (40_primitives.md R96, R97): one rule for a bit of each, from which every other form follows bit by bit. -/

namespace Sys2Proof.Proofs
open Sys2Proof.Machine

theorem getLsbD_ch (e f g : Word) {i : Nat} (hi : i < 32) :
    (ch e f g).getLsbD i = if e.getLsbD i then f.getLsbD i else g.getLsbD i := by
  rw [ch, getLsbD_xor32, getLsbD_and32, getLsbD_and32, getLsbD_not32 e hi]
  cases e.getLsbD i <;> simp

theorem getLsbD_maj (a b c : Word) (i : Nat) :
    (maj a b c).getLsbD i = decide (2 ≤ (a.getLsbD i).toNat + (b.getLsbD i).toNat + (c.getLsbD i).toNat) := by
  rw [maj, getLsbD_xor32, getLsbD_xor32, getLsbD_and32, getLsbD_and32, getLsbD_and32]
  cases a.getLsbD i <;> cases b.getLsbD i <;> cases c.getLsbD i <;> rfl

/-- A bit of `e` lets through a bit of `f` or of `g`, never both, so `or` does for `xor`. -/
theorem ch_eq_or (e f g : Word) : ch e f g = (and32 e f ||| and32 (not32 e) g) :=
  BitVec.eq_of_getLsbD_eq fun i hi => by
    rw [getLsbD_ch e f g hi, BitVec.getLsbD_or, getLsbD_and32, getLsbD_and32, getLsbD_not32 e hi]
    cases e.getLsbD i <;> simp

theorem ch_eq_xor (e f g : Word) : ch e f g = xor32 g (and32 e (xor32 f g)) :=
  BitVec.eq_of_getLsbD_eq fun i hi => by
    rw [getLsbD_ch e f g hi, getLsbD_xor32, getLsbD_and32, getLsbD_xor32]
    cases e.getLsbD i <;> cases f.getLsbD i <;> cases g.getLsbD i <;> rfl

theorem ch_of_bits {e : Word} {b : Bool} (he : ∀ i < 32, e.getLsbD i = b) (f g : Word) :
    ch e f g = if b then f else g :=
  BitVec.eq_of_getLsbD_eq fun i hi => by
    rw [getLsbD_ch e f g hi, he i hi]
    cases b <;> rfl

theorem maj_comm_left (a b c : Word) : maj a b c = maj b a c :=
  BitVec.eq_of_getLsbD_eq fun i _ => by
    rw [getLsbD_maj, getLsbD_maj, Nat.add_comm (a.getLsbD i).toNat]

theorem maj_comm_right (a b c : Word) : maj a b c = maj a c b :=
  BitVec.eq_of_getLsbD_eq fun i _ => by
    rw [getLsbD_maj, getLsbD_maj, Nat.add_right_comm]

theorem maj_eq_or (a b c : Word) : maj a b c = (and32 a b ||| and32 c (a ||| b)) :=
  BitVec.eq_of_getLsbD_eq fun i _ => by
    rw [getLsbD_maj, BitVec.getLsbD_or, getLsbD_and32, getLsbD_and32, BitVec.getLsbD_or]
    cases a.getLsbD i <;> cases b.getLsbD i <;> cases c.getLsbD i <;> rfl

theorem maj_self (x y : Word) : maj x x y = x :=
  BitVec.eq_of_getLsbD_eq fun i _ => by
    rw [getLsbD_maj]
    cases x.getLsbD i <;> cases y.getLsbD i <;> rfl

/-- Settles O10: every form by its bits; the worked examples are evaluated. -/
theorem chSelectsMajCounts : Obligations.ChSelectsMajCounts :=
  ⟨fun e f g _ => getLsbD_ch e f g, fun _ _ _ => rfl, ch_eq_or, ch_eq_xor,
    ch_of_bits (b := true) (by decide), ch_of_bits (b := false) (by decide), by decide, by decide,
    fun a b c i _ => by rw [getLsbD_maj, decide_eq_true_iff], fun _ _ _ => rfl,
    fun a b c => ⟨maj_comm_left a b c, maj_comm_right a b c⟩, maj_eq_or, maj_self, by decide⟩

end Sys2Proof.Proofs
end

section
/-! The two ROMs (10_state.md R25, R26): each entry is the fraction of a root of a prime. A root to 32 binary places is
its whole part and the entry, so two comparisons of integers bound it. -/

namespace Sys2Proof.Proofs
open Sys2Proof.Machine

/-! ### The initial-state ROM (R26) -/

/-- Settles O16: the root is its whole part and the printed fraction. -/
theorem initialStateRom : Obligations.InitialStateRom := by
  refine ⟨rfl, fun j => ⟨[1, 1, 2, 2, 3, 3, 4, 4].getD j.val 0 * 2 ^ 32 + romIV[j].toNat, ?_⟩⟩
  revert j
  decide

/-! ### The round constants (R25) -/

/-- The first 64 primes. -/
def firstPrimes : Vector Nat 64 :=
  #v[2, 3, 5, 7, 11, 13, 17, 19, 23, 29, 31, 37, 41, 43, 47, 53, 59, 61, 67, 71, 73, 79, 83, 89, 97, 101, 103, 107, 109,
    113, 127, 131, 137, 139, 149, 151, 157, 163, 167, 173, 179, 181, 191, 193, 197, 199, 211, 223, 227, 229, 233, 239,
    241, 251, 257, 263, 269, 271, 277, 281, 283, 293, 307, 311]

/-- Trial division by the numbers up to 17. -/
def trialPrime (p : Nat) : Bool := decide (2 ≤ p ∧ ∀ m ∈ List.range 18, 2 ≤ m → m < p → ¬ m ∣ p)

/-- A divisor above 17 of a number below 324 comes with one below 18. -/
theorem prime_iff_trialPrime {p : Nat} (hp : p < 324) : Nat.Prime p ↔ trialPrime p = true := by
  rw [trialPrime, decide_eq_true_iff]
  refine ⟨fun h => ?_, fun ⟨h2, h⟩ => Nat.prime_def_le_sqrt.mpr ⟨h2, fun m hm hroot => ?_⟩⟩
  · obtain ⟨h2, h⟩ := Nat.prime_def_lt'.mp h
    exact ⟨h2, fun m _ => h m⟩
  · have root : Nat.sqrt p < 18 := Nat.sqrt_lt.mpr hp
    exact h m (List.mem_range.mpr (by omega)) hm (hroot.trans_lt (Nat.sqrt_lt_self h2))

/-- The primes below 312, found by trial division, are those of the table. -/
theorem filter_prime_range : (List.range 312).filter (fun q => decide (Nat.Prime q)) = firstPrimes.toList := by
  have trial : (List.range 312).filter trialPrime = firstPrimes.toList := by decide +kernel
  rw [← trial]
  refine List.filter_congr fun q hq => ?_
  have hlt := List.mem_range.mp hq
  rw [Bool.eq_iff_iff, decide_eq_true_iff, prime_iff_trialPrime (by omega)]

theorem filter_lt_range {p n : Nat} (h : p ≤ n) : (List.range n).filter (fun q => decide (q < p)) = List.range p := by
  obtain ⟨d, rfl⟩ := Nat.exists_eq_add_of_le h
  rw [List.range_add, List.filter_append, List.filter_eq_self.mpr (by simp), List.filter_eq_nil_iff.mpr (by simp),
    List.append_nil]

/-- The primes below one of the table are those before it. -/
theorem filter_prime_range_firstPrimes (i : Fin 64) :
    ((List.range firstPrimes[i]).filter fun q => decide (Nat.Prime q)).length = i.val := by
  have bound : firstPrimes[i] ≤ 312 := by revert i; decide
  rw [← filter_lt_range bound, List.filter_filter]
  simp only [Bool.and_comm (decide (Nat.Prime _))]
  rw [← List.filter_filter, filter_prime_range]
  revert i
  decide +kernel

/-- The whole part of the cube root of a number below 343. -/
def cubeRootFloor (p : Nat) : Nat :=
  if p < 8 then 1 else if p < 27 then 2 else if p < 64 then 3 else if p < 125 then 4 else if p < 216 then 5 else 6

/-- The cube root, 32 binary places on, is its whole part and the constant. -/
theorem romK_root (i : Fin 64) :
    (cubeRootFloor firstPrimes[i] * 2 ^ 32 + romK[i].toNat) ^ 3 ≤ firstPrimes[i] * 2 ^ 96 ∧
    firstPrimes[i] * 2 ^ 96 < (cubeRootFloor firstPrimes[i] * 2 ^ 32 + romK[i].toNat + 1) ^ 3 := by
  revert i
  decide +kernel

/-- Settles O17: the primes of the table, and the root of each. -/
theorem roundConstantsAreCubeRoots : Obligations.RoundConstantsAreCubeRoots := by
  intro i
  have listed : firstPrimes[i] ∈ (List.range 312).filter fun q => decide (Nat.Prime q) := by
    rw [filter_prime_range]
    simp
  have prime : Nat.Prime firstPrimes[i] := of_decide_eq_true (List.mem_filter.mp listed).2
  refine ⟨_, _, prime, filter_prime_range_firstPrimes i, (romK_root i).1, (romK_root i).2, ?_⟩
  rw [Nat.mul_add_mod_self_right, Nat.mod_eq_of_lt romK[i].isLt]

end Sys2Proof.Proofs
end

section
/-! The byte spaces (20_memory.md R51): four bytes at a multiple of four are the big-endian bytes of a word. -/

namespace Sys2Proof.Proofs
open Sys2Proof.Machine Sys2Proof.Laws

theorem romByte_word {n : Nat} (rom : Vector Word n) (j : Fin n) (k : Fin 4) :
    romByte rom (4 * j.val + k.val) = some (bytesBe32 rom[j])[k] := by
  have word : (4 * j.val + k.val) / 4 = j.val := by omega
  have byte : (4 * j.val + k.val) % 4 = k.val := by omega
  simp [romByte, bytesBe32, word, byte]

theorem romByte_isSome {n : Nat} (rom : Vector Word n) (a : Nat) : (romByte rom a).isSome ↔ a < 4 * n := by
  unfold romByte
  split
  case isTrue h => simp; omega
  case isFalse h => simp; omega

theorem memRead_four {sp : Space} {s : State} {a : Nat} {b : Vector Byte 4}
    (h : ∀ k : Fin 4, readByte sp s (a + k.val) = some b[k]) : memRead sp s a 4 = some b.toList := by
  have h0 : readByte sp s a = some b[0] := h 0
  have h1 : readByte sp s (a + 1) = some b[1] := h 1
  have h2 : readByte sp s (a + 1 + 1) = some b[2] := h 2
  have h3 : readByte sp s (a + 1 + 1 + 1) = some b[3] := h 3
  have four : [b[0], b[1], b[2], b[3]] = b.toList :=
    List.ext_getElem (by simp) fun i hi _ => by
      have hi : i < 4 := hi
      interval_cases i <;> simp
  simp only [memRead, h0, h1, h2, h3, four]

/-- Settles O15: four bytes of a word, place by place. -/
theorem spacesReadBigEndian : Obligations.SpacesReadBigEndian := by
  refine fun s => ⟨fun j => ?_, fun i => memRead_four (romByte_word romK i), fun j => memRead_four (romByte_word romIV j),
    fun j => memRead_four fun k => ?_, fun a => ⟨?_, romByte_isSome romK a, romByte_isSome romIV a, ?_⟩⟩
  · refine ⟨_, _, _, _, memRead_four (b := #v[s.blockIn[4 * j.val], s.blockIn[4 * j.val + 1], s.blockIn[4 * j.val + 2],
      s.blockIn[4 * j.val + 3]]) fun k => ?_, rfl⟩
    fin_cases k <;> simp [readByte]
  · have byte : (render s.hs)[4 * j.val + k.val]? = some (bytesBe32 s.hs[j])[k] :=
      (Vector.getElem?_eq_getElem (by omega)).trans (congrArg some (render_get s.hs j k))
    exact byte
  · simp [readByte]
  · simp [readByte]

end Sys2Proof.Proofs
end

section
/-! Cores side by side (60_exceptions.md R178): a step of core `k` changes place `k` of the list and reads no other. -/

namespace Sys2Proof.Proofs
open Sys2Proof.Machine

/-- What a core becomes in a step of its own: a stop leaves it where it stood. -/
def stepOrStay (s : State) : State :=
  match step s with
  | .next u => u
  | .fault _ | .refused _ => s

theorem modify_eq_set_of_getElem? {l : List State} {k : Nat} {s : State} (h : l[k]? = some s) (f : State → State) :
    l.modify k f = l.set k (f s) := by
  obtain ⟨hk, rfl⟩ := List.getElem?_eq_some_iff.mp h
  refine List.ext_getElem (by simp) fun j _ _ => ?_
  rw [List.getElem_modify, List.getElem_set]
  by_cases hkj : k = j
  · subst hkj
    rfl
  · rw [if_neg hkj, if_neg hkj]

theorem stepCore_eq_modify (k : Nat) (p : Platform) : stepCore k p = ⟨p.cores.modify k stepOrStay⟩ := by
  cases hk : p.cores[k]? with
  | none => simp only [stepCore, hk, List.modify_eq_self (List.getElem?_eq_none_iff.mp hk)]
  | some s =>
    have stays : p.cores.set k s = p.cores := by
      obtain ⟨hlt, rfl⟩ := List.getElem?_eq_some_iff.mp hk
      exact List.set_getElem_self hlt
    rw [modify_eq_set_of_getElem? hk]
    cases hs : step s <;> simp [stepCore, stepOrStay, hk, hs, stays]

/-- Settles O59: a step of core `k` is `stepOrStay` at place `k` of the list and at no other. -/
theorem coresAreIsolated : Obligations.CoresAreIsolated := by
  intro p k j hjk
  simp only [stepCore_eq_modify]
  refine ⟨List.getElem?_modify_ne _ _ hjk.symm, List.length_modify _ _ _, fun s u hs hu => ?_,
    congrArg Platform.mk (List.modify_modify_ne _ _ _ hjk)⟩
  rw [List.getElem?_modify_eq, hs]
  simp [stepOrStay, hu]

end Sys2Proof.Proofs
end
